-- ==== Sys2Proof/Word.lean ====
section
/-! DEFINITION. The words of the TDU and the RGB888 triple (spec/00_scope.md R11, R14, R19). -/

namespace Sys2Proof

/-- An MMIO register, a byte-source address or a command word: 32 bits (R11, R110). -/
abbrev Word := BitVec 32

/-- One byte of the byte source, or one colour channel (R17, R19). -/
abbrev Byte := BitVec 8

/-- A 4-bit pixel index (spec/41_tile_unpacker.md R161). -/
abbrev Nibble := BitVec 4

/-- An RGB888 triple `(r, g, b)`, each channel 0..255 (R19). -/
structure Rgb where
  r : Byte
  g : Byte
  b : Byte
  deriving DecidableEq, Repr, Inhabited

/-- The triple (0,0,0). -/
abbrev Rgb.black : Rgb := ⟨0, 0, 0⟩

end Sys2Proof
end

