-- ==== Sys2Proof/Syntax.lean ====
section
/-! DEFINITION. The six commands of spec/30_encoding.md R114, one constructor for each row of spec/opcode_table.json. -/

namespace Sys2Proof

/-- A command. `w` and `h` are the command word's 8-bit tile-grid fields W and H (R111, R112). -/
inductive Instr where
  /-- No operation (43_control.md R214). -/
  | nop
  /-- Load and decode a palette record (40_palette.md R142). -/
  | pload
  /-- Set the palette to the empty state (40_palette.md R146). -/
  | pclr
  /-- Unpack one tile into the tile index buffer (41_tile_unpacker.md R162). -/
  | tunpk
  /-- Assemble a decoded image of w × h tiles (42_raster_assembler.md R185). -/
  | asm (w h : BitVec 8)
  /-- Fill the frame buffer with the placeholder image of w × h tiles (42_raster_assembler.md R192). -/
  | phold (w h : BitVec 8)
  deriving DecidableEq, Repr

end Sys2Proof
end

