-- ==== Sys2Proof/WellFormed.lean ====
section
/-! DEFINITION. Which terms of `Instr` are commands: spec/30_encoding.md R112, R117. -/

namespace Sys2Proof

/-- R112: a tile grid has 1 ≤ W ≤ 255 and 1 ≤ H ≤ 255. -/
abbrev gridWf (w h : BitVec 8) : Prop := w ≠ 0#8 ∧ h ≠ 0#8

/-- A command is well formed when its grid is (R112, R117). -/
def Instr.wf : Instr → Bool
  | .nop => true
  | .pload => true
  | .pclr => true
  | .tunpk => true
  | .asm w h => decide (gridWf w h)
  | .phold w h => decide (gridWf w h)

end Sys2Proof
end

