-- ==== Sys2Proof/Decode.lean ====
section
/-! DEFINITION. The command word's fields, the decoder (total on all 2^32 words, rejecting by name), and the encoder:
spec/30_encoding.md R110–R120. -/

namespace Sys2Proof

/-- Why a word is illegal (R116, R117). -/
inductive Illegal where
  /-- RSV0 or RSV1 is not 0 (R117). -/
  | reservedBits
  /-- W or H is not 0 in a word for NOP, PLOAD, PCLR or TUNPK (R117). -/
  | unexpectedGrid
  /-- W or H is 0 in a word for ASM or PHOLD (R117). -/
  | zeroGrid
  /-- OP is in 0x6..0xF (R116). -/
  | reservedOpcode
  deriving DecidableEq, Repr

/-- OP, bits 3:0 (R111). -/
def opField (v : Word) : BitVec 4 := v.extractLsb' 0 4

/-- RSV0, bits 7:4 (R111). -/
def rsv0Field (v : Word) : BitVec 4 := v.extractLsb' 4 4

/-- W, bits 15:8 (R111). -/
def wField (v : Word) : BitVec 8 := v.extractLsb' 8 8

/-- H, bits 23:16 (R111). -/
def hField (v : Word) : BitVec 8 := v.extractLsb' 16 8

/-- RSV1, bits 31:24 (R111). -/
def rsv1Field (v : Word) : BitVec 8 := v.extractLsb' 24 8

/-- A command without a grid: W and H must be 0 (R115, R117). -/
def decodePlain (i : Instr) (v : Word) : Except Illegal Instr :=
  if wField v ≠ 0#8 ∨ hField v ≠ 0#8 then .error .unexpectedGrid else .ok i

/-- A command with a grid: neither W nor H may be 0 (R115, R117). -/
def decodeGrid (mk : BitVec 8 → BitVec 8 → Instr) (v : Word) : Except Illegal Instr :=
  if wField v = 0#8 ∨ hField v = 0#8 then .error .zeroGrid else .ok (mk (wField v) (hField v))

/-- `Decode(v)` of R115; its `Illegal` is `.error` with the reason's name. -/
def decode (v : Word) : Except Illegal Instr :=
  if rsv0Field v ≠ 0#4 ∨ rsv1Field v ≠ 0#8 then .error .reservedBits
  else if opField v = 0x0#4 then decodePlain .nop v
  else if opField v = 0x1#4 then decodePlain .pload v
  else if opField v = 0x2#4 then decodePlain .pclr v
  else if opField v = 0x3#4 then decodePlain .tunpk v
  else if opField v = 0x4#4 then decodeGrid .asm v
  else if opField v = 0x5#4 then decodeGrid .phold v
  else .error .reservedOpcode

/-- The command word `RSV1 H W RSV0 OP` with zero reserved fields (R111, R120). -/
def commandWord (op : BitVec 4) (w h : BitVec 8) : Word := 0#8 ++ h ++ w ++ 0#4 ++ op

/-- `Enc` of R120. -/
def encode : Instr → Word
  | .nop => commandWord 0x0#4 0#8 0#8
  | .pload => commandWord 0x1#4 0#8 0#8
  | .pclr => commandWord 0x2#4 0#8 0#8
  | .tunpk => commandWord 0x3#4 0#8 0#8
  | .asm w h => commandWord 0x4#4 w h
  | .phold w h => commandWord 0x5#4 w h

/-- The word whose low `nbits` bits are those of `w`, the rest 0 (DESIGN CHOICE for fewer than 32 bits, log 24). -/
def tableWord (nbits w : Nat) : Word := BitVec.ofNat 32 (w % 2 ^ nbits)

/-- What the decoder reads from a word of the opcode table. Every command is one 32-bit word (R110, R119), so bit k of the
table's number is bit k of the command word. A number of fewer than 32 bits is extended with zeros, and one of more than 32 names no
command (DESIGN CHOICE, log 24). -/
def decodeTableWord (nbits w : Nat) : Option Instr :=
  if nbits ≤ 32 then (decode (tableWord nbits w)).toOption else none

/-! Every constructor's decoding, shown by its word as the spec writes it (R114, R120, R142, R146, R162, R185, R192, R214). -/

theorem decode_nop_word : decode 0x00000000 = .ok .nop := by decide
theorem decode_pload_word : decode 0x00000001 = .ok .pload := by decide
theorem decode_pclr_word : decode 0x00000002 = .ok .pclr := by decide
theorem decode_tunpk_word : decode 0x00000003 = .ok .tunpk := by decide
theorem decode_asm_word : decode 0b00000000_00000010_00000001_0000_0100 = .ok (.asm 1 2) := by decide
theorem decode_phold_word : decode 0b00000000_00000011_00000010_0000_0101 = .ok (.phold 2 3) := by decide

end Sys2Proof
end

