-- ==== Sys2Proof/Config.lean ====
section
/-! DEFINITION. The fixed constants of spec/00_scope.md R10, the default and bounds of its parameter
FB_MAX_PIXELS (R12), and the free values: constants without a body, about which nothing can be proved. -/

namespace Sys2Proof.Config

/-- `TILE_BYTES` (R10; 90_conflicts.md C1: 32, never 24). `TILE_ROW_BYTES` = 4 stands as a numeral in R161 and R182, and here. -/
abbrev tileBytes : Nat := 32

/-- The palette record size in bytes (R10). -/
abbrev paletteBytes : Nat := 32

/-- The palette size in entries (R10). -/
abbrev paletteSize : Nat := 16

/-- The placeholder sentinel colour (R10, 42_raster_assembler.md R194). -/
abbrev sentinel : Rgb := ⟨170, 170, 170⟩

/-- The least value of FB_MAX_PIXELS (R12). -/
abbrev fbMinCapacity : Nat := 64

/-- The greatest value of FB_MAX_PIXELS, which is also its default (R12). -/
abbrev fbMaxCapacity : Nat := 65536

/-- TDU_BASE: the platform address of offset 0 of the MMIO window, left OPEN (R12, 92_eei_decisions.md D37).
DESIGN CHOICE, log 17: no step of the block reads it, since the MMIO port is driven by the 20-bit offset (20_memory.md R80). -/
opaque tduBase : Nat

/-- FREE VALUE (10_state.md R58, 93_implementation_defined.md S1; log 7): what the n-th read of a result register made
while STATUS.BUSY = 1 returns. -/
opaque busyRead : Nat → Word

/-- FREE VALUE (30_encoding.md R121 states no result; DESIGN CHOICE, log 16): the data word of the n-th draw, for a host
program's `WR` of a value that does not fit 32 bits. -/
opaque wideWrite : Nat → Word

/-- FREE VALUE (10_state.md R57, 93_implementation_defined.md S3; log 5): what frame-buffer entry k holds while no command
has written it since reset. -/
opaque unwrittenPixel : Nat → Rgb

end Sys2Proof.Config
end

