-- ==== Sys2Proof/Machine/State.lean ====
section
/-! DEFINITION. The state of the machine as plain data: every register and storage element of spec/10_state.md, the byte
source, the two ports, the host agent and the pending inputs (INVENTORY.md, '## State'), and the state right after reset. -/

namespace Sys2Proof.Machine

/-- The latched command L (10_state.md R60). -/
structure Latch where
  cmd : Word
  addr : Word
  srcLen : Word
  srcEn : Bool
  deriving DecidableEq, Repr

/-- One request on the source read port: `count` bytes starting at byte `addr` (20_memory.md R83, R86). -/
structure SrcRequest where
  addr : Word
  count : Nat
  deriving DecidableEq, Repr

/-- The registers of the MMIO window by name (10_state.md R33). 30_encoding.md R121 does not say whether a host program may compute
the index in `PAL[i]`, `TIDX_ROW[r]` or `FB[k]`; here it is a literal number (DESIGN CHOICE, log 26). -/
inductive Reg where
  | ctrl
  | status
  | cmd
  | addr
  | srcLen
  | errInfo
  | palCount
  | palOff
  | fbKind
  | fbGrid
  | fbOff
  | fbDim
  | fbCap
  | pal (i : Fin 16)
  | tidxRow (r : Fin 8)
  | fb (k : Nat)
  deriving DecidableEq, Repr

/-- A name of a host program (`RD <reg> -> <name>`, 30_encoding.md R121), as a number. -/
abbrev HostVar := Nat

/-- A label of a host program (30_encoding.md R121), as a number. -/
abbrev HostLabel := Nat

/-- A value in a host program: a natural number computed from literals and names (44_host_sprite_reader.md R233: `O + i*len`,
`s.ERR`). 30_encoding.md R121 leaves the grammar of `<value>` open: these forms are a DESIGN CHOICE, log 26. -/
inductive HostExpr where
  | lit (n : Nat)
  | var (x : HostVar)
  | add (a b : HostExpr)
  | mul (a b : HostExpr)
  /-- The unsigned field of `width` bits whose lowest bit is bit `lo`. -/
  | field (e : HostExpr) (lo width : Nat)
  deriving DecidableEq, Repr

/-- The condition of an `IF` (44_host_sprite_reader.md R233 uses `==` and `AND`). 30_encoding.md R121 leaves the grammar of
`<cond>` open: these forms are a DESIGN CHOICE, log 26. -/
inductive HostCond where
  | eq (a b : HostExpr)
  | lt (a b : HostExpr)
  | and (a b : HostCond)
  | not (a : HostCond)
  deriving DecidableEq, Repr

/-- One action of a host program (30_encoding.md R121, R122; 44_host_sprite_reader.md R231, R233). -/
inductive HostInstr where
  /-- `WR <reg>, <value>`: one 32-bit MMIO write. -/
  | wr (reg : Reg) (value : HostExpr)
  /-- `RD <reg> -> <name>`: one 32-bit MMIO read. -/
  | rd (reg : Reg) (name : HostVar)
  /-- `IF <cond> GOTO <label>`. -/
  | ifGoto (cond : HostCond) (target : HostLabel)
  /-- `GOTO <label>`. -/
  | goto (target : HostLabel)
  /-- `<label>:`. -/
  | label (l : HostLabel)
  /-- `<name> = <value>`. -/
  | assign (name : HostVar) (value : HostExpr)
  /-- `result = []`. -/
  | clearResult
  /-- "append it to result": the sprite record of R231, made from the names its reads were put in. -/
  | appendRecord
  /-- `report (i, s.ERR, e)`. -/
  | reportSprite (i err info : HostExpr)
  /-- "report the error" of the palette load. -/
  | reportPalette (err : HostExpr)
  deriving DecidableEq, Repr

/-- A host sprite record (44_host_sprite_reader.md R231). -/
structure SpriteRecord where
  offset : Word
  grid : Word
  palette : List Word
  palOff : Word
  kind : Word
  pixels : List Word
  deriving DecidableEq, Repr

/-- What a host program reports (44_host_sprite_reader.md R233). -/
inductive HostReport where
  | sprite (i err info : Nat)
  | palette (err : Nat)
  deriving DecidableEq, Repr

/-- The host agent: its program, the position in it, its names (an unlisted name holds 0), its result and its reports. -/
structure HostCtx where
  program : List HostInstr
  pc : Nat
  vars : List (Nat × Nat)
  result : List SpriteRecord
  reports : List HostReport
  /-- The program is an issued SEARCH (44_host_sprite_reader.md R237). -/
  searching : Bool
  deriving DecidableEq, Repr

/-- One input of the machine: the steps of 43_control.md R219, the host-owned changes of SRC (70_reset_and_hazards.md R291),
and the issue of host programs. -/
inductive Event where
  /-- (a) A raw MMIO read of `width` bits at byte offset `off`, by another host context than `host`'s program. -/
  | read (off : BitVec 20) (width : Nat)
  /-- (b) A raw MMIO write of `width` bits at byte offset `off`, by another host context than `host`'s program. -/
  | write (off : BitVec 20) (width : Nat) (data : Word)
  /-- (c) The engine's turn: completion when BUSY = 1. -/
  | engine
  /-- (d) The reset input. -/
  | reset
  /-- The host changes one byte of the byte source. -/
  | source (a : Word) (b : Byte)
  /-- The host program's turn: its next action. -/
  | host
  /-- The host starts a program of its own. -/
  | program (p : List HostInstr)
  /-- The host issues SEARCH(O, W, H, P, count) (44_host_sprite_reader.md R233). -/
  | search (o w h p count : Nat)
  deriving DecidableEq, Repr

/-- The whole machine. -/
structure State where
  /-- CTRL.SRC_EN (R34). -/
  srcEn : Bool
  /-- STATUS.BUSY (R35). -/
  busy : Bool
  /-- STATUS.DONE (R36). -/
  done : Bool
  /-- STATUS.OVR (R37). -/
  ovr : Bool
  /-- STATUS.ERR (R38). -/
  err : BitVec 4
  /-- CMD (R40). -/
  cmd : Word
  /-- ADDR (R41). -/
  addr : Word
  /-- SRC_LEN (R42). -/
  srcLen : Word
  /-- ERRINFO (R43). -/
  errInfo : Word
  /-- PAL_COUNT bits 4:0 (R44). -/
  palCount : BitVec 5
  /-- PAL_OFF (R45). -/
  palOff : Word
  /-- FB_KIND bits 1:0 (R46). -/
  fbKind : BitVec 2
  /-- FB_GRID bits 7:0, W (R47). -/
  fbGridW : BitVec 8
  /-- FB_GRID bits 15:8, H (R47). -/
  fbGridH : BitVec 8
  /-- FB_OFF (R48). -/
  fbOff : Word
  /-- FB_DIM bits 15:0, the width in pixels (R49). -/
  fbDimW : BitVec 16
  /-- FB_DIM bits 31:16, the height in pixels (R49). -/
  fbDimH : BitVec 16
  /-- FB_MAX_PIXELS, the parameter FB_CAP reads (R12, R50). No step changes it. -/
  fbMaxPixels : Nat
  /-- The palette lookup RAM (R55). -/
  pal : Vector Rgb 16
  /-- The tile index buffer, row by row (R56). -/
  tidx : Vector (Vector Nibble 8) 8
  /-- The frame buffer (R57): entry k is the k-th of the list, and an entry past its end has not been written since reset. -/
  fb : List Rgb
  /-- The latched command L (R60). -/
  latch : Latch
  /-- The byte source SRC (20_memory.md R82), a canonical list (`Memory.wf`). -/
  src : List Host.Cell
  /-- MODEL'S OWN: the requests made on the source read port, oldest first. -/
  requests : List SrcRequest
  /-- MODEL'S OWN: the MMIO port's read-data bus (20_memory.md R80). -/
  readData : Word
  /-- MODEL'S OWN: how many free draws have been made (R58; logs 7 and 16). -/
  draws : Nat
  /-- MODEL'S OWN: the host agent. -/
  host : HostCtx
  /-- MODEL'S OWN: the inputs still to come, the next one first. -/
  events : List Event
  deriving DecidableEq, Repr

/-- Why the machine is stuck. No command and no access of the block faults (60_exceptions.md R250). -/
inductive Fault where
  /-- Raised by the host agent's `GOTO` or `IF .. GOTO` to a label its program does not have: the program has no next action
  (30_encoding.md R121). Safe: the model stops. -/
  | hostLabelUndefined (l : HostLabel)
  deriving DecidableEq, Repr

/-- Why a step is refused. -/
inductive Refusal where
  /-- Raised by an arm of `exec` whose command has no meaning yet. Safe. -/
  | notModelled (mnemonic : String)
  /-- Raised by an MMIO access that is not 32 bits wide or not 4-byte aligned (20_memory.md R91, "The model refuses such an
  access"), or that names FB[k] with k ≥ FB_MAX_PIXELS (10_state.md R53 gives no such register). Safe. -/
  | accessOutsideContract (off width : Nat)
  /-- Raised by a change of a source byte that the command in flight reads (70_reset_and_hazards.md R291, "The model refuses
  the host step that breaks it"). Safe. -/
  | sourceChangedWhileRead (a : Word)
  /-- Raised by a host program's `WR SRC_LEN` of a length past 2^32 − 1: "such a host program is outside the contract"
  (44_host_sprite_reader.md R230; 93_implementation_defined.md S11). Safe. -/
  | sourceTooLong (len : Nat)
  /-- Raised by the issue of a SEARCH whose W or H is outside 1..255 or one of whose offsets exceeds 2^32 − 1
  (44_host_sprite_reader.md R233, R236: "refused and not issued"; 93_implementation_defined.md S11; log 23). Safe. -/
  | searchOutOfRange
  /-- Raised by the issue of a program or a SEARCH while another runs, and by another host context's access to ADDR, CMD or
  a result register inside a SEARCH (44_host_sprite_reader.md R237, 93_implementation_defined.md S12). Safe. -/
  | searchInterleaved
  deriving DecidableEq, Repr

/-- The latch after reset; the spec calls its value irrelevant (R60): DESIGN CHOICE, log 6. -/
abbrev Latch.reset : Latch := ⟨0, 0, 0, false⟩

/-- No host program. -/
abbrev HostCtx.idle : HostCtx := ⟨[], 0, [], [], [], false⟩

/-- The machine right after reset (70_reset_and_hazards.md R281), with FB_MAX_PIXELS at its default (00_scope.md R12), a byte
source that lists nothing, no host program and no pending input. -/
def State.reset : State where
  srcEn := false
  busy := false
  done := false
  ovr := false
  err := 0
  cmd := 0
  addr := 0
  srcLen := 0
  errInfo := 0
  palCount := 0
  palOff := 0
  fbKind := 0
  fbGridW := 0
  fbGridH := 0
  fbOff := 0
  fbDimW := 0
  fbDimH := 0
  fbMaxPixels := Config.fbMaxCapacity
  pal := Vector.replicate 16 Rgb.black
  tidx := Vector.replicate 8 (Vector.replicate 8 0)
  fb := []
  latch := Latch.reset
  src := []
  requests := []
  readData := 0
  draws := 0
  host := HostCtx.idle
  events := []

end Sys2Proof.Machine
end

