-- ==== Sys2Proof/Machine/Memory.lean ====
section
/-! DEFINITION. Sparse storage as a canonical list of (key, value) pairs, and the byte source SRC over it
(spec/20_memory.md R82). The host agent's names are stored the same way. -/

namespace Sys2Proof.Machine

/-- The value of key `a`; a key nothing lists has the value `d`. -/
def cellsRead {α : Type} (d : α) : List (Nat × α) → Nat → α
  | [], _ => d
  | (k, v) :: rest, a => if a = k then v else cellsRead d rest a

/-- The pairs with the value `v` at key `a` in front of the larger keys; the value `d` is not listed. -/
def cellsCons {α : Type} [DecidableEq α] (d : α) (a : Nat) (v : α) (rest : List (Nat × α)) : List (Nat × α) :=
  if v = d then rest else (a, v) :: rest

/-- Write `v` at key `a`, keeping the canonical form. -/
def cellsWrite {α : Type} [DecidableEq α] (d : α) : List (Nat × α) → Nat → α → List (Nat × α)
  | [], a, v => cellsCons d a v []
  | (k, w) :: rest, a, v =>
    if a < k then cellsCons d a v ((k, w) :: rest)
    else if a = k then cellsCons d a v rest
    else (k, w) :: cellsWrite d rest a v

/-- The canonical form: keys strictly rising, and no pair with the value an unlisted key has. -/
def cellsWf {α : Type} [DecidableEq α] (d : α) (l : List (Nat × α)) : Bool :=
  decide (l.Pairwise fun p q => p.1 < q.1) && l.all fun p => decide (p.2 ≠ d)

/-- What a byte-source address nothing lists reads as. DESIGN CHOICE, log 3: the contents of SRC are a parameter (00_scope.md R12). -/
def Memory.unlisted : Byte := 0x00

/-- The byte of the source at address `a`. -/
def Memory.read (m : List Host.Cell) (a : Nat) : Byte := cellsRead Memory.unlisted m a

/-- The source with byte `b` at address `a`. -/
def Memory.write (m : List Host.Cell) (a : Nat) (b : Byte) : List Host.Cell := cellsWrite Memory.unlisted m a b

/-- The canonical form of the byte source; its addresses are 32 bits wide (00_scope.md R11). -/
def Memory.wf (m : List Host.Cell) : Bool :=
  cellsWf Memory.unlisted m && m.all fun p => decide (p.1 < 2 ^ 32)

end Sys2Proof.Machine
end

