-- ==== Sys2Proof/Machine/Flags.lean ====
section
/-! DEFINITION. The status flags and error codes: spec/10_state.md R35–R39, spec/60_exceptions.md R251. -/

namespace Sys2Proof.Machine

/-- The errors a completion can raise (60_exceptions.md R251). -/
inductive ErrKind where
  | illegalCommand
  | sourceUnavailable
  | truncatedTileData
  | malformedPalette
  | paletteEmpty
  | frameTooLarge
  deriving DecidableEq, Repr

/-- code(E) of 60_exceptions.md R251. -/
def ErrKind.code : ErrKind → BitVec 4
  | .illegalCommand => 1
  | .sourceUnavailable => 2
  | .truncatedTileData => 3
  | .malformedPalette => 4
  | .paletteEmpty => 5
  | .frameTooLarge => 6

/-- The STATUS read value `{20'b0, ERR[3:0], 5'b0, OVR, DONE, BUSY}` (10_state.md R39). -/
def statusWord (s : State) : Word :=
  0#20 ++ s.err ++ 0#5 ++ BitVec.ofBool s.ovr ++ BitVec.ofBool s.done ++ BitVec.ofBool s.busy

/-- The flags at acceptance: BUSY 1, DONE 0, ERR 0, ERRINFO 0, OVR unchanged (43_control.md R211). -/
def flagsAccepted (s : State) : State :=
  { s with busy := true, done := false, err := 0, errInfo := 0 }

/-- The common completion writes: ERR and ERRINFO, BUSY 0, DONE 1 (43_control.md R213). -/
def flagsCompleted (err : BitVec 4) (info : Word) (s : State) : State :=
  { s with busy := false, done := true, err := err, errInfo := info }

/-- A host write of `v` to STATUS: bit 2 clears OVR, every other bit is ignored (10_state.md R35–R39). -/
def flagsWritten (v : Word) (s : State) : State :=
  { s with ovr := s.ovr && !v.getLsbD 2 }

end Sys2Proof.Machine
end

