-- ==== Sys2Proof/Machine/Operands.lean ====
section
/-! DEFINITION. The operands of a command: the byte-source primitives of spec/00_scope.md R17, the geometry of
spec/30_encoding.md R112, and the colour word of spec/00_scope.md R19. -/

namespace Sys2Proof.Machine

/-- `Avail(a, n)` under the length `len`, on natural numbers, so that nothing wraps (00_scope.md R17, 92_eei_decisions.md D29). -/
def avail (len a n : Nat) : Nat := if a < len then min n (len - a) else 0

/-- `Avail(L.ADDR, n)` under the latched L.SRC_LEN. -/
def latchAvail (s : State) (n : Nat) : Nat := avail s.latch.srcLen.toNat s.latch.addr.toNat n

/-- `SrcRead(a)` (00_scope.md R17). -/
def srcRead (s : State) (a : Nat) : Byte := Memory.read s.src a

/-- `SrcRead16(a) = {SrcRead(a+1), SrcRead(a)}` (00_scope.md R17, 20_memory.md R87). -/
def srcRead16 (s : State) (a : Nat) : BitVec 16 := srcRead s (a + 1) ++ srcRead s a

/-- Byte `k` of the record a command reads at L.ADDR (20_memory.md R83, R95). -/
def latchByte (s : State) (k : Nat) : Byte := srcRead s (s.latch.addr.toNat + k)

/-- `len = 32*W*H` (30_encoding.md R112). -/
def gridBytes (w h : BitVec 8) : Nat := 32 * w.toNat * h.toNat

/-- `n = 64*W*H` (42_raster_assembler.md R183). -/
def gridPixels (w h : BitVec 8) : Nat := 64 * w.toNat * h.toNat

/-- A grid side in pixels, `8*W` or `8*H` (30_encoding.md R112). -/
def sidePixels (w : BitVec 8) : Nat := 8 * w.toNat

/-- `RGBWord(r,g,b) = {8'h00, b, g, r}` (00_scope.md R19). -/
def rgbWord (c : Rgb) : Word := 0#8 ++ c.b ++ c.g ++ c.r

/-- Byte lane `j` of a register word: bits 8j+7:8j (20_memory.md R88). -/
def laneByte (v : Word) (j : Nat) : Byte := v.extractLsb' (8 * j) 8

/-- The bytes a command's request asks for, for the commands that read the source (20_memory.md R86). -/
def sourceNeed : Instr → Option Nat
  | .nop => none
  | .pload => some Config.paletteBytes
  | .pclr => none
  | .tunpk => some Config.tileBytes
  | .asm w h => some (gridBytes w h)
  | .phold _ _ => none

end Sys2Proof.Machine
end

