-- ==== Sys2Proof/Machine/Ops.lean ====
section
/-! DEFINITION. The named operations over the block's state: acceptance, the two ends of a completion, the one request on
the source read port with its checks, the capacity check, the image write, and reset. -/

namespace Sys2Proof.Machine

/-- Acceptance of the word `v` (43_control.md R211). It does not decode `v`. -/
def accept (v : Word) (s : State) : State :=
  flagsAccepted { s with cmd := v, latch := ⟨v, s.addr, s.srcLen, s.srcEn⟩ }

/-- `raise E(info)`: the only effect of an error beside the common completion writes (00_scope.md R18, 60_exceptions.md R255).
There is no trap, so nothing is saved and there is no return (60_exceptions.md R256, R257). -/
def raiseError (e : ErrKind) (info : Word) (s : State) : State := flagsCompleted e.code info s

/-- The end of a successful completion (43_control.md R213). -/
def succeed (s : State) : State := flagsCompleted 0 0 s

/-- The engine's request (L.ADDR, n) on the source read port (20_memory.md R83, R86). -/
def request (n : Nat) (s : State) : State :=
  { s with requests := s.requests ++ [⟨s.latch.addr, n⟩] }

/-- A command that reads `need` bytes at L.ADDR: the availability check, its one request, the length check, and then its
writes `use` (60_exceptions.md R252–R254, 20_memory.md R85, R86). -/
def withSource (need : Nat) (short : ErrKind) (use : State → State) (s : State) : State :=
  if s.latch.srcEn = false then raiseError .sourceUnavailable 0 s
  else if latchAvail s need < need then raiseError short (BitVec.ofNat 32 (latchAvail s need)) (request need s)
  else succeed (use (request need s))

/-- The capacity check of ASM and PHOLD (42_raster_assembler.md R188). -/
def withCapacity (w h : BitVec 8) (go : State → State) (s : State) : State :=
  if s.fbMaxPixels < gridPixels w h then raiseError .frameTooLarge (BitVec.ofNat 32 (gridPixels w h)) s else go s

/-- Write the image `px` of a w × h grid and its registers (42_raster_assembler.md R185, R192). Frame-buffer entries past the
image keep what they held. -/
def writeImage (kind : BitVec 2) (w h : BitVec 8) (px : List Rgb) (s : State) : State :=
  { s with
    fb := px ++ s.fb.drop px.length
    fbKind := kind
    fbGridW := w
    fbGridH := h
    fbOff := s.latch.addr
    fbDimW := BitVec.ofNat 16 (sidePixels w)
    fbDimH := BitVec.ofNat 16 (sidePixels h) }

/-- Frame-buffer entry k (10_state.md R57). -/
def fbEntry (s : State) (k : Nat) : Rgb := s.fb.getD k (Config.unwrittenPixel k)

/-- The number of pixels of the current image, `w*h` of 10_state.md R53. -/
def imagePixels (s : State) : Nat := s.fbDimW.toNat * s.fbDimH.toNat

/-- Reset (70_reset_and_hazards.md R280, R281): the block's registers and storage take their reset values and a command in
flight is discarded. The parameter, the byte source, the port traces, the host agent and the pending inputs are not the
block's: "A reset has no other effect" (log 19). -/
def applyReset (s : State) : State :=
  { State.reset with
    fbMaxPixels := s.fbMaxPixels
    src := s.src
    requests := s.requests
    readData := s.readData
    draws := s.draws
    host := s.host
    events := s.events }

end Sys2Proof.Machine
end

