-- ==== Sys2Proof/Machine/Control.lean ====
section
/-! DEFINITION. The meaning of NOP (spec/43_control.md R214) and of an illegal word (R215). -/

namespace Sys2Proof.Machine

/-- NOP: no write beyond the common completion writes (R214). -/
def execNop (s : State) : Host.Outcome State Fault Refusal := .next (succeed s)

/-- A word for which `Decode` returns Illegal completes with IllegalCommand and the whole word as ERRINFO (R215). -/
def completeIllegal (s : State) : State := raiseError .illegalCommand s.latch.cmd s

end Sys2Proof.Machine
end

