-- ==== Sys2Proof/Machine/Palette.lean ====
section
/-! DEFINITION. Palette decode, the palette lookup RAM, PLOAD and PCLR: spec/40_palette.md. -/

namespace Sys2Proof.Machine

/-- `Col15(c)` (R141), by its three formulas. -/
def col15 (c : BitVec 16) : Rgb where
  r := BitVec.ofNat 8 ((c.toNat &&& 0x001F) * 8)
  g := BitVec.ofNat 8 (((c.toNat &&& 0x03E0) >>> 5) * 8)
  b := BitVec.ofNat 8 (((c.toNat &&& 0x7C00) >>> 10) * 8)

/-- Entry j of the palette record at L.ADDR (R142). -/
def paletteEntry (s : State) (j : Nat) : Rgb := col15 (srcRead16 s (s.latch.addr.toNat + 2 * j))

/-- The writes of a successful PLOAD (R142, R143). -/
def loadPalette (s : State) : State :=
  { s with
    pal := Vector.ofFn fun j => paletteEntry s j.val
    palCount := 16#5
    palOff := s.latch.addr }

/-- PLOAD (R142, R144). -/
def execPload (s : State) : Host.Outcome State Fault Refusal :=
  .next (withSource Config.paletteBytes .malformedPalette loadPalette s)

/-- PCLR (R146). It writes no palette entry. -/
def execPclr (s : State) : Host.Outcome State Fault Refusal :=
  .next (succeed { s with palCount := 0#5, palOff := 0 })

/-- `PalLookup(i)` (R148). -/
def palLookup (s : State) (i : Nibble) : Rgb := s.pal[i.toNat]'(by have := i.isLt; omega)

end Sys2Proof.Machine
end

