-- ==== Sys2Proof/Machine/Tile.lean ====
section
/-! DEFINITION. The tile unpacker and TUNPK: spec/41_tile_unpacker.md. -/

namespace Sys2Proof.Machine

/-- `(b >> (4*s)) & 0xF`: the low (s = 0) or high (s = 1) nibble of a byte (R161). -/
def nibbleOf (b : Byte) (s : Nat) : Nibble := BitVec.ofNat 4 ((b.toNat >>> (4 * s)) &&& 0xF)

/-- `Unpack(t)[r][c]` of the tile whose byte k is `t k` (R161). -/
def unpackAt (t : Nat → Byte) (r c : Nat) : Nibble :=
  nibbleOf (t (4 * r + (c >>> 1))) (c &&& 1)

/-- `Unpack(t)`: the 8×8 grid of indices (R161). -/
def unpack (t : Nat → Byte) : Vector (Vector Nibble 8) 8 :=
  Vector.ofFn fun r => Vector.ofFn fun c => unpackAt t r.val c.val

/-- The writes of a successful TUNPK (R162, R163). -/
def loadTile (s : State) : State := { s with tidx := unpack (latchByte s) }

/-- TUNPK (R162, R164). -/
def execTunpk (s : State) : Host.Outcome State Fault Refusal :=
  .next (withSource Config.tileBytes .truncatedTileData loadTile s)

end Sys2Proof.Machine
end

