-- ==== Sys2Proof/Machine/Raster.lean ====
section
/-! DEFINITION. The tile-to-pixel address mapper, the source's scan loop, ASM and PHOLD: spec/42_raster_assembler.md. -/

namespace Sys2Proof.Machine

/-- The source byte address of `Map(A, W, x, y)` (R182). -/
def mapAddr (a w x y : Nat) : Nat :=
  a + 32 * ((y / 8) * w + x / 8) + 4 * (y % 8) + (x % 8) / 2

/-- The nibble select of `Map(A, W, x, y)`: 0 = low, 1 = high (R182). -/
def mapNibble (x : Nat) : Nat := (x % 8) % 2

/-- The index of pixel (x, y): `(SrcRead(a) >> (4*s)) & 0xF` with (a, s) = `Map(A, W, x, y)`; `t` is the source (R182, R185). -/
def pixelIndex (t : Nat → Byte) (a w x y : Nat) : Nibble := nibbleOf (t (mapAddr a w x y)) (mapNibble x)

/-- The indices of the W × H grid at byte address `a` in raster order, by the closed form: entry k is pixel (k % 8W, k / 8W) (R183, R185). -/
def rasterIndices (t : Nat → Byte) (a w h : Nat) : List Nibble :=
  (List.range (64 * w * h)).map fun k => pixelIndex t a w (k % (8 * w)) (k / (8 * w))

/-- The bytes of tile (tr, tc) of the grid at byte address `a`: row-major storage order across the whole grid (R180). -/
def gridTile (t : Nat → Byte) (a w tr tc : Nat) : Nat → Byte :=
  fun k => t (a + 32 * (tr * w + tc) + k)

/-- The indices in the order the source's loop appends them: tile-row, sub-row, tile-column, column (R181). -/
def scanIndices (t : Nat → Byte) (a w h : Nat) : List Nibble :=
  (List.range h).flatMap fun tileRow =>
    (List.range 8).flatMap fun subRow =>
      (List.range w).flatMap fun tileCol =>
        (List.range 8).map fun c => unpackAt (gridTile t a w tileRow tileCol) subRow c

/-- The pixels ASM writes: each index of the grid at L.ADDR through the palette (R185). -/
def decodedImage (s : State) (w h : BitVec 8) : List Rgb :=
  (rasterIndices (srcRead s) s.latch.addr.toNat w.toNat h.toNat).map (palLookup s)

/-- The writes of a successful ASM (R185, R186). -/
def assemble (w h : BitVec 8) (s : State) : State := writeImage 1 w h (decodedImage s w h) s

/-- ASM's PaletteEmpty check (R190) before the checks of the source. -/
def assembleFromPalette (w h : BitVec 8) (s : State) : State :=
  if s.palCount = 0#5 then raiseError .paletteEmpty 0 s
  else withSource (gridBytes w h) .truncatedTileData (assemble w h) s

/-- ASM W, H (R185, R187). -/
def execAsm (w h : BitVec 8) (s : State) : Host.Outcome State Fault Refusal :=
  .next (withCapacity w h (assembleFromPalette w h) s)

/-- The pixels PHOLD writes (R192, R194). -/
def placeholderImage (w h : BitVec 8) : List Rgb := List.replicate (gridPixels w h) Config.sentinel

/-- The writes of a successful PHOLD (R192). -/
def placeholder (w h : BitVec 8) (s : State) : State := succeed (writeImage 2 w h (placeholderImage w h) s)

/-- PHOLD W, H (R192, R193). -/
def execPhold (w h : BitVec 8) (s : State) : Host.Outcome State Fault Refusal :=
  .next (withCapacity w h (placeholder w h) s)

end Sys2Proof.Machine
end

