-- ==== Sys2Proof/Machine/Dispatch.lean ====
section
/-! DEFINITION. `Exec(d)` of spec/43_control.md R213 with the common completion writes: one arm per command. -/

namespace Sys2Proof.Machine

def exec (i : Instr) (s : State) : Host.Outcome State Fault Refusal :=
  match i with
  | .nop => Sys2Proof.Machine.execNop s
  | .pload => Sys2Proof.Machine.execPload s
  | .pclr => Sys2Proof.Machine.execPclr s
  | .tunpk => Sys2Proof.Machine.execTunpk s
  | .asm w h => Sys2Proof.Machine.execAsm w h s
  | .phold w h => Sys2Proof.Machine.execPhold w h s

end Sys2Proof.Machine
end

