-- ==== Sys2Proof/Machine/Engine.lean ====
section
/-! DEFINITION. The engine's step (spec/43_control.md R213) and the byte source's stability while a command reads it
(spec/70_reset_and_hazards.md R291). -/

namespace Sys2Proof.Machine

/-- `Complete()` (R213). -/
def complete (s : State) : Host.Outcome State Fault Refusal :=
  match decode s.latch.cmd with
  | .ok i => exec i s
  | .error _ => .next (completeIllegal s)

/-- The engine's turn: a completion exactly when BUSY = 1 (00_scope.md R13); otherwise the engine has no step and nothing
changes (60_exceptions.md R267). -/
def engineTurn (s : State) : Host.Outcome State Fault Refusal := if s.busy then complete s else .next s

/-- How many bytes at L.ADDR the command in flight keeps stable: need, or 0 when it reads none (R291). -/
def stableBytes (s : State) : Nat :=
  if s.busy then
    match decode s.latch.cmd with
    | .ok i => (sourceNeed i).getD 0
    | .error _ => 0
  else 0

/-- Whether address `a` lies in `L.ADDR .. L.ADDR + need − 1` of a command in flight (R291). -/
def inStableWindow (s : State) (a : Nat) : Bool :=
  decide (s.latch.addr.toNat ≤ a ∧ a < s.latch.addr.toNat + stableBytes s)

/-- The host changes the byte of the source at `a` to `b` (20_memory.md R82). A change of a byte the command in flight reads
is refused; writing the byte that is already there changes nothing (log 12). -/
def changeSource (a : Word) (b : Byte) (s : State) : Host.Outcome State Fault Refusal :=
  if inStableWindow s a.toNat && decide (srcRead s a.toNat ≠ b) then .refused (.sourceChangedWhileRead a)
  else .next { s with src := Memory.write s.src a.toNat b }

end Sys2Proof.Machine
end

