-- ==== Sys2Proof/Machine/Mmio.lean ====
section
/-! DEFINITION. The MMIO window: register map, read values, and host reads and writes (spec/10_state.md R33–R58,
spec/20_memory.md R91–R93, spec/43_control.md R211, R212, R216). -/

namespace Sys2Proof.Machine

/-- The byte offset of a register (10_state.md R33). -/
def Reg.offset : Reg → Nat
  | .ctrl => 0x00000
  | .status => 0x00004
  | .cmd => 0x00008
  | .addr => 0x0000C
  | .srcLen => 0x00010
  | .errInfo => 0x00014
  | .palCount => 0x00018
  | .palOff => 0x0001C
  | .fbKind => 0x00020
  | .fbGrid => 0x00024
  | .fbOff => 0x00028
  | .fbDim => 0x0002C
  | .fbCap => 0x00030
  | .pal i => 0x00040 + 4 * i.val
  | .tidxRow r => 0x00080 + 4 * r.val
  | .fb k => 0x10000 + 4 * k

/-- The register at word number `n` (offset 4n) below 0x40, none where the map says reserved (10_state.md R33). -/
def lowReg (n : Nat) : Option Reg :=
  [Reg.ctrl, .status, .cmd, .addr, .srcLen, .errInfo, .palCount, .palOff,
   .fbKind, .fbGrid, .fbOff, .fbDim, .fbCap][n]?

/-- The register at the aligned byte offset `off`, none where the map says reserved, under FB_MAX_PIXELS = `cap`
(10_state.md R33). -/
def regAt (cap off : Nat) : Option Reg :=
  if off < 0x00040 then lowReg (off / 4)
  else if off < 0x00080 then some (.pal (Fin.ofNat 16 ((off - 0x00040) / 4)))
  else if off < 0x000A0 then some (.tidxRow (Fin.ofNat 8 ((off - 0x00080) / 4)))
  else if off < 0x10000 then none
  else if (off - 0x10000) / 4 < cap then some (.fb ((off - 0x10000) / 4))
  else none

/-- The platform address at which the host sees a byte offset (00_scope.md R12). -/
def platformAddress (off : BitVec 20) : Nat := Config.tduBase + off.toNat

/-- TIDX_ROW[r]: `{TIDX[r][7], ..., TIDX[r][0]}` (10_state.md R52). -/
def packRow (row : Vector Nibble 8) : Word :=
  row[7] ++ row[6] ++ row[5] ++ row[4] ++ row[3] ++ row[2] ++ row[1] ++ row[0]

/-- The value of a register while it is defined (10_state.md R34–R53). -/
def regValue (s : State) : Reg → Word
  | .ctrl => (BitVec.ofBool s.srcEn).setWidth 32
  | .status => statusWord s
  | .cmd => s.cmd
  | .addr => s.addr
  | .srcLen => s.srcLen
  | .errInfo => s.errInfo
  | .palCount => s.palCount.setWidth 32
  | .palOff => s.palOff
  | .fbKind => s.fbKind.setWidth 32
  | .fbGrid => 0#16 ++ s.fbGridH ++ s.fbGridW
  | .fbOff => s.fbOff
  | .fbDim => s.fbDimH ++ s.fbDimW
  | .fbCap => BitVec.ofNat 32 s.fbMaxPixels
  | .pal i => if s.palCount = 16#5 then rgbWord s.pal[i] else 0
  | .tidxRow r => packRow s.tidx[r]
  | .fb k => if k < imagePixels s then rgbWord (fbEntry s k) else 0

/-- The result registers (10_state.md R58). -/
def Reg.isResult : Reg → Bool
  | .ctrl | .status | .cmd | .addr | .srcLen | .errInfo | .fbCap => false
  | .palCount | .palOff | .fbKind | .fbGrid | .fbOff | .fbDim | .pal _ | .tidxRow _ | .fb _ => true

/-- A host read of the register `r` puts its value on the read-data bus; a result register read while BUSY is a free draw,
and the stored state is unchanged (10_state.md R58; 20_memory.md R93). -/
def readReg (r : Reg) (s : State) : State :=
  if s.busy && r.isResult then { s with readData := Config.busyRead s.draws, draws := s.draws + 1 }
  else { s with readData := regValue s r }

/-- A host write of `v` to CMD: acceptance, or a drop that sets OVR (43_control.md R211, R212). -/
def writeCmd (v : Word) (s : State) : State := if s.busy then { s with ovr := true } else accept v s

/-- A host write of `v` to the register `r`; every register but CTRL, STATUS, CMD, ADDR and SRC_LEN ignores it
(20_memory.md R93, 43_control.md R216). -/
def writeReg (r : Reg) (v : Word) (s : State) : State :=
  match r with
  | .ctrl => { s with srcEn := v.getLsbD 0 }
  | .status => flagsWritten v s
  | .cmd => writeCmd v s
  | .addr => { s with addr := v }
  | .srcLen => { s with srcLen := v }
  | .errInfo | .palCount | .palOff | .fbKind | .fbGrid | .fbOff | .fbDim | .fbCap | .pal _ | .tidxRow _ | .fb _ => s

/-- The interface contract: 32 bits wide, `offset[1:0] = 0`, inside the 20-bit window (20_memory.md R91, 00_scope.md R11). -/
def inContract (off width : Nat) : Bool := decide (width = 32 ∧ off % 4 = 0 ∧ off < 2 ^ 20)

/-- A host MMIO read; a reserved offset reads 0 (10_state.md R54). -/
def busRead (off width : Nat) (s : State) : Host.Outcome State Fault Refusal :=
  if inContract off width then
    match regAt s.fbMaxPixels off with
    | some r => .next (readReg r s)
    | none => .next { s with readData := 0 }
  else .refused (.accessOutsideContract off width)

/-- A host MMIO write; a reserved offset ignores it (10_state.md R54). -/
def busWrite (off width : Nat) (v : Word) (s : State) : Host.Outcome State Fault Refusal :=
  if inContract off width then
    match regAt s.fbMaxPixels off with
    | some r => .next (writeReg r v s)
    | none => .next s
  else .refused (.accessOutsideContract off width)

end Sys2Proof.Machine
end

