-- ==== Sys2Proof/Machine/HostAgent.lean ====
section
/-! DEFINITION. The host agent: the actions of host programs (spec/30_encoding.md R121), their pseudo-instructions RUN and
WAIT (R122), and the host programs READONE and SEARCH (spec/44_host_sprite_reader.md R230–R237). -/

namespace Sys2Proof.Machine

/-- The value of a host name; a name not yet given a value holds 0 (DESIGN CHOICE, log 14). -/
def HostCtx.get (h : HostCtx) (x : HostVar) : Nat := cellsRead 0 h.vars x

/-- Give a host name a value. -/
def HostCtx.set (h : HostCtx) (x : HostVar) (v : Nat) : HostCtx := { h with vars := cellsWrite 0 h.vars x v }

/-- The value of an expression, an unbounded natural number (92_eei_decisions.md D29). -/
def HostExpr.eval (h : HostCtx) : HostExpr → Nat
  | .lit n => n
  | .var x => h.get x
  | .add a b => a.eval h + b.eval h
  | .mul a b => a.eval h * b.eval h
  | .field e lo width => (e.eval h >>> lo) % 2 ^ width

/-- Whether a condition holds. -/
def HostCond.eval (h : HostCtx) : HostCond → Bool
  | .eq a b => decide (a.eval h = b.eval h)
  | .lt a b => decide (a.eval h < b.eval h)
  | .and a b => a.eval h && b.eval h
  | .not a => !a.eval h

/-- The position of a label in a program; of a label that stands more than once, the first (DESIGN CHOICE, log 25). -/
def labelIndex (l : HostLabel) : List HostInstr → Option Nat
  | [] => none
  | .label m :: rest => if m = l then some 0 else (labelIndex l rest).map (· + 1)
  | _ :: rest => (labelIndex l rest).map (· + 1)

/-- The names a host program puts its reads in: s, e, i and len of R233, and the registers of a sprite record (R231). -/
def HostVar.s : HostVar := 0
def HostVar.e : HostVar := 1
def HostVar.i : HostVar := 2
def HostVar.len : HostVar := 3
def HostVar.fbOff : HostVar := 4
def HostVar.fbGrid : HostVar := 5
def HostVar.palOff : HostVar := 6
def HostVar.fbKind : HostVar := 7
def HostVar.pal (i : Nat) : HostVar := 16 + i
def HostVar.fb (k : Nat) : HostVar := 32 + k

/-- The value of a host name as the 32-bit word a read returned. -/
def HostCtx.word (h : HostCtx) (x : HostVar) : Word := BitVec.ofNat 32 (h.get x)

/-- The pixel count `64·W·H` of the grid word that was read. -/
def HostCtx.recordPixels (h : HostCtx) : Nat :=
  gridPixels ((h.word HostVar.fbGrid).extractLsb' 0 8) ((h.word HostVar.fbGrid).extractLsb' 8 8)

/-- The sprite record made from what was read (R231). -/
def HostCtx.record (h : HostCtx) : SpriteRecord where
  offset := h.word HostVar.fbOff
  grid := h.word HostVar.fbGrid
  palette := (List.range Config.paletteSize).map fun i => h.word (HostVar.pal i)
  palOff := h.word HostVar.palOff
  kind := h.word HostVar.fbKind
  pixels := (List.range h.recordPixels).map fun k => h.word (HostVar.fb k)

/-- The record's derived `byteLength`, `32*W*H` (R231). -/
def SpriteRecord.byteLength (r : SpriteRecord) : Nat := gridBytes (r.grid.extractLsb' 0 8) (r.grid.extractLsb' 8 8)

/-- The machine with another host context. -/
def State.withHost (s : State) (h : HostCtx) : State := { s with host := h }

/-- The host's next action is the one after this. -/
def HostCtx.advance (h : HostCtx) : HostCtx := { h with pc := h.pc + 1 }

/-- The host goes on at a label; a label its program does not have leaves it without a next action (log 18). -/
def HostCtx.jumpTo (l : HostLabel) (h : HostCtx) : Except HostLabel HostCtx :=
  match labelIndex l h.program with
  | some n => .ok { h with pc := n }
  | none => .error l

/-- Whether an action is an MMIO access. -/
def HostInstr.isAccess : HostInstr → Bool
  | .wr _ _ | .rd _ _ => true
  | .ifGoto _ _ | .goto _ | .label _ | .assign _ _ | .clearResult | .appendRecord | .reportSprite _ _ _ | .reportPalette _ => false

/-- The host's own part of an action, which touches no block state (43_control.md R217); of an access, that the host moves on. An
error names the label a jump does not find. -/
def HostCtx.proceed (op : HostInstr) (h : HostCtx) : Except HostLabel HostCtx :=
  match op with
  | .wr _ _ | .rd _ _ | .label _ => .ok h.advance
  | .ifGoto c l => if c.eval h then h.jumpTo l else .ok h.advance
  | .goto l => h.jumpTo l
  | .assign x v => .ok (h.set x (v.eval h)).advance
  | .clearResult => .ok { h.advance with result := [] }
  | .appendRecord => .ok { h.advance with result := h.result ++ [h.record] }
  | .reportSprite i e n => .ok { h.advance with reports := h.reports ++ [.sprite (i.eval h) (e.eval h) (n.eval h)] }
  | .reportPalette e => .ok { h.advance with reports := h.reports ++ [.palette (e.eval h)] }

/-- Whether a name of R121 names a register: `FB[k]` has k < FB_MAX_PIXELS (10_state.md R33). -/
def regExists (s : State) : Reg → Bool
  | .fb k => decide (k < s.fbMaxPixels)
  | _ => true

/-- The data word of a host value: the value, or a free draw where it does not fit 32 bits (DESIGN CHOICE, log 16). -/
def hostWord (v : Nat) (s : State) : Word := if v < 2 ^ 32 then BitVec.ofNat 32 v else Config.wideWrite s.draws

/-- The machine after the host has formed the data word of a value: a draw is used once. -/
def wordFormed (v : Nat) (s : State) : State := if v < 2 ^ 32 then s else { s with draws := s.draws + 1 }

/-- `WR <reg>, <value>`: one 32-bit MMIO write at the register's offset (R121). A source length past 2^32 − 1 "cannot be
described" and is refused (R230). -/
def hostWrite (r : Reg) (v : Nat) (s : State) : Host.Outcome State Fault Refusal :=
  if r = .srcLen ∧ 2 ^ 32 ≤ v then .refused (.sourceTooLong v)
  else if regExists s r then busWrite r.offset 32 (hostWord v s) ((wordFormed v s).withHost s.host.advance)
  else .refused (.accessOutsideContract r.offset 32)

/-- The name `x` takes the value on the read-data bus. -/
def takeReadData (x : HostVar) (s : State) : State := s.withHost (s.host.set x s.readData.toNat)

/-- `RD <reg> -> <name>`: one 32-bit MMIO read at the register's offset (R121). -/
def hostRead (r : Reg) (x : HostVar) (s : State) : Host.Outcome State Fault Refusal :=
  if regExists s r then
    match busRead r.offset 32 (s.withHost s.host.advance) with
    | .next t => .next (takeReadData x t)
    | .fault f => .fault f
    | .refused q => .refused q
  else .refused (.accessOutsideContract r.offset 32)

/-- An action that is no access: the host's own part is all of it. -/
def hostBusiness (op : HostInstr) (s : State) : Host.Outcome State Fault Refusal :=
  match s.host.proceed op with
  | .ok c => .next (s.withHost c)
  | .error l => .fault (.hostLabelUndefined l)

/-- One action of the host program. -/
def hostAction (op : HostInstr) (s : State) : Host.Outcome State Fault Refusal :=
  match op with
  | .wr r v => hostWrite r (v.eval s.host) s
  | .rd r x => hostRead r x s
  | .ifGoto _ _ | .goto _ | .label _ | .assign _ _ | .clearResult | .appendRecord | .reportSprite _ _ _ | .reportPalette _ =>
    hostBusiness op s

/-- The host program's turn; a program that has ended takes no step (43_control.md R219). -/
def hostTurn (s : State) : Host.Outcome State Fault Refusal :=
  match s.host.program[s.host.pc]? with
  | some op => hostAction op s
  | none => .next s

/-- The host program has ended. -/
def HostCtx.ended (h : HostCtx) : Bool := decide (h.program.length ≤ h.pc)

/-- "A run is over when the host program has ended and BUSY = 0" (43_control.md R219), and no input is to come. -/
def State.runOver (s : State) : Bool := s.host.ended && !s.busy && s.events.isEmpty

/-- `STATUS.ERR` of a status word held in the name s. -/
def statusErr : HostExpr := .field (.var HostVar.s) 8 4

/-- `WAIT`: `w: RD STATUS -> s ; IF s[0] == 1 GOTO w` (R122). -/
def waitProgram (w : HostLabel) : List HostInstr :=
  [.label w, .rd .status HostVar.s, .ifGoto (.eq (.field (.var HostVar.s) 0 1) (.lit 1)) w]

/-- `RUN <command>`: `WR CMD, Enc(<command>)`, then `WAIT` (R122). -/
def runProgram (i : Instr) (w : HostLabel) : List HostInstr := .wr .cmd (.lit (encode i).toNat) :: waitProgram w

/-- The host first describes the byte source: its length, and whether it can be opened (R230). -/
def describeSource (len : Nat) (available : Bool) : List HostInstr :=
  [.wr .srcLen (.lit len), .wr .ctrl (.lit available.toNat)]

/-- The reads of a sprite record of an image of `n` pixels (R231; their order is log 22's). -/
def readRecord (n : Nat) : List HostInstr :=
  ([.rd .fbOff HostVar.fbOff, .rd .fbGrid HostVar.fbGrid, .rd .palOff HostVar.palOff, .rd .fbKind HostVar.fbKind] : List HostInstr)
  ++ (List.finRange Config.paletteSize).map (fun i => HostInstr.rd (.pal i) (HostVar.pal i.val))
  ++ (List.range n).map (fun k => HostInstr.rd (.fb k) (HostVar.fb k))

/-- The labels of SEARCH (R233): `next`, `hold`, `keep`, `step`, `empty`, `done`, and one for each WAIT. -/
def lblNext : HostLabel := 0
def lblHold : HostLabel := 1
def lblKeep : HostLabel := 2
def lblStep : HostLabel := 3
def lblEmpty : HostLabel := 4
def lblDone : HostLabel := 5
def lblWaitPload : HostLabel := 6
def lblWaitAsm : HostLabel := 7
def lblWaitPhold : HostLabel := 8

/-- SEARCH's palette load and its two failures (R233). -/
def searchPalette (p : Nat) : List HostInstr :=
  ([.wr .addr (.lit p)] : List HostInstr) ++ runProgram .pload lblWaitPload
  ++ ([.rd .status HostVar.s, .ifGoto (.eq statusErr (.lit 2)) lblEmpty, .ifGoto (.eq statusErr (.lit 4)) lblEmpty] : List HostInstr)

/-- SEARCH's reads of sprite i (R233). -/
def searchSprite (o : Nat) (w h : BitVec 8) (count : Nat) : List HostInstr :=
  ([.label lblNext, .ifGoto (.eq (.var HostVar.i) (.lit count)) lblDone,
    .wr .addr (.add (.lit o) (.mul (.var HostVar.i) (.var HostVar.len)))] : List HostInstr)
  ++ runProgram (.asm w h) lblWaitAsm
  ++ ([.rd .status HostVar.s, .rd .errInfo HostVar.e,
       .ifGoto (.eq statusErr (.lit 0)) lblKeep,
       .ifGoto (.and (.eq statusErr (.lit 3)) (.eq (.var HostVar.e) (.lit 0))) lblHold,
       .reportSprite (.var HostVar.i) statusErr (.var HostVar.e), .goto lblStep] : List HostInstr)

/-- The host program `SEARCH(O, W, H, P, count)` (R233). -/
def searchProgram (o : Nat) (w h : BitVec 8) (p count : Nat) : List HostInstr :=
  searchPalette p
  ++ ([.assign HostVar.len (.lit (gridBytes w h)), .assign HostVar.i (.lit 0), .clearResult] : List HostInstr)
  ++ searchSprite o w h count
  ++ ([.label lblHold] : List HostInstr) ++ runProgram (.phold w h) lblWaitPhold
  ++ ([.label lblKeep] : List HostInstr) ++ readRecord (gridPixels w h)
  ++ ([.appendRecord,
       .label lblStep, .assign HostVar.i (.add (.var HostVar.i) (.lit 1)), .goto lblNext,
       .label lblEmpty, .clearResult, .reportPalette statusErr,
       .label lblDone] : List HostInstr)

/-- The host program `READONE(O, W, H, P)` (R232). -/
def readOneProgram (o : Nat) (w h : BitVec 8) (p : Nat) : List HostInstr := searchProgram o w h p 1

/-- SEARCH's requirement: 1 ≤ W, H ≤ 255 (R233), and every ADDR value it writes, P among them, fits 32 bits (R236;
93_implementation_defined.md S11, log 23). -/
def searchInRange (o w h p count : Nat) : Bool :=
  decide (1 ≤ w ∧ w ≤ 255 ∧ 1 ≤ h ∧ h ≤ 255 ∧ p ≤ 2 ^ 32 - 1 ∧ (1 ≤ count → o + (count - 1) * 32 * w * h ≤ 2 ^ 32 - 1))

/-- Start a host program. -/
def startProgram (p : List HostInstr) (searching : Bool) (s : State) : State :=
  s.withHost ⟨p, 0, [], [], [], searching⟩

/-- The host starts a program of its own; one program at a time (R237). -/
def issueProgram (p : List HostInstr) (s : State) : Host.Outcome State Fault Refusal :=
  if s.host.ended then .next (startProgram p false s) else .refused .searchInterleaved

/-- The host issues a SEARCH; one at a time (R237), and one outside the requirement is not issued (R236). -/
def issueSearch (o w h p count : Nat) (s : State) : Host.Outcome State Fault Refusal :=
  if s.host.ended then
    if searchInRange o w h p count then
      .next (startProgram (searchProgram o (BitVec.ofNat 8 w) (BitVec.ofNat 8 h) p count) true s)
    else .refused .searchOutOfRange
  else .refused .searchInterleaved

/-- Whether the host's next access comes before `n` actions of its own have been made. -/
def HostCtx.accessWithin : Nat → HostCtx → Bool
  | 0, _ => false
  | n + 1, h =>
    match h.program[h.pc]? with
    | none => false
    | some op =>
      op.isAccess ||
        match h.proceed op with
        | .ok c => c.accessWithin n
        | .error _ => false

/-- A SEARCH is between its first action, `WR ADDR`, and its last access: the last FB read, unless its last sprite is not kept (R237,
log 15). No stretch without an access is longer than a SEARCH's program. -/
def HostCtx.inSearch (h : HostCtx) : Bool := h.searching && decide (0 < h.pc) && h.accessWithin h.program.length

/-- Whether another host context's access at an offset interleaves with a SEARCH: ADDR, CMD and the result registers (R237). -/
def interleaves (s : State) (off : Nat) : Bool :=
  s.host.inSearch &&
    match regAt s.fbMaxPixels off with
    | some r => r.isResult || decide (r = .addr) || decide (r = .cmd)
    | none => false

/-- A raw MMIO read by another host context. -/
def rawRead (off width : Nat) (s : State) : Host.Outcome State Fault Refusal :=
  if interleaves s off then .refused .searchInterleaved else busRead off width s

/-- A raw MMIO write by another host context. -/
def rawWrite (off width : Nat) (v : Word) (s : State) : Host.Outcome State Fault Refusal :=
  if interleaves s off then .refused .searchInterleaved else busWrite off width v s

end Sys2Proof.Machine
end

