-- ==== Sys2Proof/Machine/Turns.lean ====
section
/-! DEFINITION. Which agent moves, and what its move does: the step relation of spec/43_control.md R219 under the
interleaving that `State.events` holds (spec/20_memory.md R97). -/

namespace Sys2Proof.Machine

/-- The move of one input (R219). -/
def perform (e : Event) (s : State) : Host.Outcome State Fault Refusal :=
  match e with
  | .read off width => rawRead off.toNat width s
  | .write off width v => rawWrite off.toNat width v s
  | .engine => engineTurn s
  | .reset => .next (applyReset s)
  | .source a b => changeSource a b s
  | .host => hostTurn s
  | .program p => issueProgram p s
  | .search o w h p count => issueSearch o w h p count s

/-- With no input to come: the engine if BUSY, else the host program (DESIGN CHOICE, log 1). -/
def quietTurn (s : State) : Host.Outcome State Fault Refusal := if s.busy then complete s else hostTurn s

/-- One step of the machine: the next input's move, or the quiet turn. -/
def takeTurn (s : State) : Host.Outcome State Fault Refusal :=
  match s.events with
  | [] => quietTurn s
  | e :: rest => perform e { s with events := rest }

/-- The command word `v` in the command slot, as an acceptance leaves it, and the engine's turn next (log 10). -/
def placeCommand (v : Word) (s : State) : State := { accept v s with events := .engine :: s.events }

end Sys2Proof.Machine
end

