-- ==== Sys2Proof/Machine/Step.lean ====
section
/-! DEFINITION. The step of the machine, and the placing of a command word where it runs next. -/

namespace Sys2Proof.Machine

/-- One step (43_control.md R219): one host step, one completion or one reset. -/
def step (s : State) : Host.Outcome State Fault Refusal := takeTurn s

/-- `s` with the command word of the opcode table in the command slot. The block fetches no instruction (10_state.md R31): a
word comes to run by a host's CMD write, for whose acceptance (43_control.md R211) this stands (log 10). -/
def State.withFetchWord (s : State) (nbits w : Nat) : State := placeCommand (tableWord nbits w) s

end Sys2Proof.Machine
end

