-- ==== Sys2Proof/Machine/Assembler.lean ====
section
/-! DEFINITION. The command lines of spec/30_encoding.md R120: one mnemonic, operands separated by commas, `;` starts a
comment. The layout of blanks is log 21's. -/

namespace Sys2Proof.Machine

/-- A line without its comment. -/
def dropComment (l : List Char) : List Char := l.takeWhile (· ≠ ';')

/-- A line without the blanks at its two ends. -/
def trimBlanks (l : List Char) : List Char :=
  ((l.dropWhile Char.isWhitespace).reverse.dropWhile Char.isWhitespace).reverse

/-- The value of a digit in the base 10 or 16. -/
def digitValue (base : Nat) (c : Char) : Option Nat :=
  let v := if c.isDigit then c.toNat - '0'.toNat
    else if 'a' ≤ c ∧ c ≤ 'f' then c.toNat - 'a'.toNat + 10
    else if 'A' ≤ c ∧ c ≤ 'F' then c.toNat - 'A'.toNat + 10
    else base
  if v < base then some v else none

/-- The number a list of digits writes, most significant first. -/
def digitsValue (base : Nat) : List Char → Nat → Option Nat
  | [], acc => some acc
  | c :: rest, acc => (digitValue base c).bind fun v => digitsValue base rest (acc * base + v)

/-- A number, decimal or `0x` hexadecimal (R120). -/
def numberValue : List Char → Option Nat
  | [] => none
  | '0' :: 'x' :: [] => none
  | '0' :: 'x' :: ds => digitsValue 16 ds 0
  | ds => digitsValue 10 ds 0

/-- A grid operand: a number in 1..255 (R120). -/
def operandValue (l : List Char) : Option (BitVec 8) :=
  (numberValue (trimBlanks l)).bind fun n => if 1 ≤ n ∧ n ≤ 255 then some (BitVec.ofNat 8 n) else none

/-- The two operands `w, h`. -/
def gridOperands (mk : BitVec 8 → BitVec 8 → Instr) (l : List Char) : Option Instr :=
  match l.dropWhile (· ≠ ',') with
  | [] => none
  | _ :: hs => (operandValue (l.takeWhile (· ≠ ','))).bind fun w => (operandValue hs).map (mk w)

/-- A mnemonic and the text after it, as the command it writes. -/
def assembleParts (mnemonic rest : List Char) : Option Instr :=
  if mnemonic = "ASM".toList then gridOperands .asm rest
  else if mnemonic = "PHOLD".toList then gridOperands .phold rest
  else if rest ≠ [] then none
  else if mnemonic = "NOP".toList then some .nop
  else if mnemonic = "PLOAD".toList then some .pload
  else if mnemonic = "PCLR".toList then some .pclr
  else if mnemonic = "TUNPK".toList then some .tunpk
  else none

/-- The command a line writes, if it writes one (R120). -/
def assembleLine (line : List Char) : Option Instr :=
  let l := trimBlanks (dropComment line)
  assembleParts (l.takeWhile fun c => !c.isWhitespace) (trimBlanks (l.dropWhile fun c => !c.isWhitespace))

end Sys2Proof.Machine
end

