-- ==== Sys2Proof/Safety.lean ====
section
/-! DEFINITION. The terms claims are stated in: the invariant of the machine (spec/10_state.md section 2, spec/42_raster_assembler.md
R195), what the next step is a step of (spec/43_control.md R219), which parts of a state no host access and no command can observe
(spec/93_implementation_defined.md S2–S4), a change of the byte source, what a SEARCH asks for, returns and reports
(spec/44_host_sprite_reader.md R231–R235), and runs. -/

namespace Sys2Proof.Machine

/-- Each channel is a multiple of 8 (40_palette.md R141, 10_state.md R55). -/
def Rgb.scaled (c : Rgb) : Bool :=
  decide (c.r.toNat % 8 = 0) && decide (c.g.toNat % 8 = 0) && decide (c.b.toNat % 8 = 0)

/-- The invariant of the machine: every step keeps it. -/
structure StateInv (s : State) : Prop where
  /-- FB_MAX_PIXELS is at least 64 and at most 65536 (00_scope.md R12). -/
  capacity : Config.fbMinCapacity ≤ s.fbMaxPixels ∧ s.fbMaxPixels ≤ Config.fbMaxCapacity
  /-- The byte source is in canonical form. -/
  srcWf : Memory.wf s.src = true
  /-- The host's names are in canonical form. -/
  varsWf : cellsWf 0 s.host.vars = true
  /-- BUSY and DONE are never both 1 (10_state.md R35, R36). -/
  busyNotDone : s.busy = true → s.done = false
  /-- Without a completion on record ERR and ERRINFO are 0 (10_state.md R38, R43). -/
  noOutcome : s.done = false → s.err = 0#4 ∧ s.errInfo = 0#32
  /-- "Values 7 to 15 are never produced" (10_state.md R38). -/
  errLegal : s.err.toNat ≤ 6
  /-- While BUSY the latched word is the one CMD reads (10_state.md R40, R60). -/
  busyLatch : s.busy = true → s.latch.cmd = s.cmd
  /-- PAL_COUNT is exactly 0 or 16 (10_state.md R44). -/
  palCountLegal : s.palCount = 0#5 ∨ s.palCount = 16#5
  /-- The empty palette has offset 0 (10_state.md R45). -/
  palOffEmpty : s.palCount = 0#5 → s.palOff = 0#32
  /-- Each channel of the palette lookup RAM is a multiple of 8 (10_state.md R55). -/
  palScaled : ∀ i : Fin 16, Rgb.scaled s.pal[i] = true
  /-- FB_KIND 3 is never produced (10_state.md R46). -/
  kindLegal : s.fbKind ≠ 3#2
  /-- FB_KIND = 0 if and only if FB_DIM = 0 and FB_GRID = 0 (42_raster_assembler.md R195). -/
  noImage : s.fbKind = 0#2 ↔ (s.fbDimW = 0#16 ∧ s.fbDimH = 0#16) ∧ s.fbGridW = 0#8 ∧ s.fbGridH = 0#8
  /-- Without an image FB_OFF is 0 (10_state.md R48). -/
  noImageOff : s.fbKind = 0#2 → s.fbOff = 0#32
  /-- FB_DIM = {8·H, 8·W} (42_raster_assembler.md R195). -/
  dims : s.fbDimW.toNat = sidePixels s.fbGridW ∧ s.fbDimH.toNat = sidePixels s.fbGridH
  /-- The image fits the frame buffer (42_raster_assembler.md R188). -/
  imageFits : imagePixels s ≤ s.fbMaxPixels
  /-- Every entry of the image has been written (42_raster_assembler.md R195, "never partially filled"). -/
  imageWritten : imagePixels s ≤ s.fb.length
  /-- The frame buffer has FB_MAX_PIXELS entries (10_state.md R57). -/
  storageFits : s.fb.length ≤ s.fbMaxPixels
  /-- The pixels of a decoded image are palette colours: multiples of 8 (42_raster_assembler.md R185, R194). -/
  decodedPixels : s.fbKind = 1#2 → ∀ k < imagePixels s, Rgb.scaled (fbEntry s k) = true
  /-- The pixels of a placeholder are the sentinel colour (42_raster_assembler.md R192). -/
  placeholderPixels : s.fbKind = 2#2 → ∀ k < imagePixels s, fbEntry s k = Config.sentinel

/-- What the next step is a step of. -/
inductive Move where
  /-- A host write of a value to a register. -/
  | write (r : Reg) (v : Word)
  /-- An engine completion. -/
  | complete
  /-- A reset. -/
  | reset
  /-- Anything else: a host read, a write to a reserved offset, a host program's own business, a source change, no step at all. -/
  | other
  deriving DecidableEq, Repr

/-- The move of the host program's next action. -/
def hostMove (s : State) : Move :=
  match s.host.program[s.host.pc]? with
  | some (.wr r v) => .write r (hostWord (v.eval s.host) s)
  | _ => .other

/-- The move of a raw MMIO write. -/
def rawMove (s : State) (off : Nat) (v : Word) : Move :=
  match regAt s.fbMaxPixels off with
  | some r => .write r v
  | none => .other

/-- The move the next step makes. -/
def nextMove (s : State) : Move :=
  match s.events with
  | [] => if s.busy then .complete else hostMove s
  | .write off _ v :: _ => rawMove s off.toNat v
  | .engine :: _ => if s.busy then .complete else .other
  | .reset :: _ => .reset
  | .host :: _ => hostMove s
  | _ => .other

/-- Two states that differ only in what the spec says is never observable: palette entries while PAL_COUNT = 0, frame-buffer
entries at and past width·height, and L while BUSY = 0 (93_implementation_defined.md S2, S3, S4). -/
structure ObsEq (s t : State) : Prop where
  same : t = { s with pal := t.pal, fb := t.fb, latch := t.latch }
  pal : s.palCount ≠ 0#5 → t.pal = s.pal
  fb : ∀ k < imagePixels s, fbEntry t k = fbEntry s k
  latch : s.busy = true → t.latch = s.latch

/-- Two outcomes of one kind: next states related by `R`, the same fault, or the same refusal. -/
def outcomesRelated (R : State → State → Prop) :
    Host.Outcome State Fault Refusal → Host.Outcome State Fault Refusal → Prop
  | .next s, .next t => R s t
  | .fault f, .fault g => f = g
  | .refused p, .refused q => p = q
  | _, _ => False

/-- `t` is `s` with the input taken and the byte `b` at address `a` of the source, every other byte as it was. -/
def sourceChanged (s : State) (rest : List Event) (a : Word) (b : Byte) (t : State) : Prop :=
  (∀ c, srcRead t c = if c = a.toNat then b else srcRead s c) ∧ t = { s with events := rest, src := t.src }

/-! What `SEARCH(O, W, H, P, count)` asks for, returns and reports when it is issued in the state `s`: spec/44_host_sprite_reader.md
R231, R233–R235, written from the source alone and not from the program the host runs. -/

/-- How the palette load of a SEARCH fails, if it does: SourceUnavailable or MalformedPalette (R234). -/
def searchPaletteError (s : State) (p : Nat) : Option Nat :=
  if s.srcEn = false then some 2 else if avail s.srcLen.toNat p 32 < 32 then some 4 else none

/-- The bytes of sprite i that the source holds, of the `32*W*H` it needs at `O + i*32*W*H` (R233). -/
def spriteAvail (s : State) (o : Nat) (w h : BitVec 8) (i : Nat) : Nat :=
  avail s.srcLen.toNat (o + i * gridBytes w h) (gridBytes w h)

/-- The record of sprite i with the kind and the pixels given (R231). -/
def spriteRecord (s : State) (o : Nat) (w h : BitVec 8) (p i : Nat) (kind : Word) (pixels : List Word) : SpriteRecord where
  offset := BitVec.ofNat 32 (o + i * gridBytes w h)
  grid := 0#16 ++ h ++ w
  palette := (List.range 16).map fun j => rgbWord (col15 (srcRead16 s (p + 2 * j)))
  palOff := BitVec.ofNat 32 p
  kind := kind
  pixels := pixels

/-- The pixels of sprite i, in raster order, through the palette at P (40_palette.md R141, 42_raster_assembler.md R182). -/
def spritePixels (s : State) (o : Nat) (w h : BitVec 8) (p i : Nat) : List Word :=
  (rasterIndices (srcRead s) (o + i * gridBytes w h) w.toNat h.toNat).map fun x =>
    rgbWord (col15 (srcRead16 s (p + 2 * x.toNat)))

/-- What sprite i adds to the result: a decoded record, a placeholder when no data came back, or nothing (R234). -/
def spriteFound (s : State) (o : Nat) (w h : BitVec 8) (p i : Nat) : Option SpriteRecord :=
  if s.fbMaxPixels < gridPixels w h then none
  else if spriteAvail s o w h i = gridBytes w h then some (spriteRecord s o w h p i 1 (spritePixels s o w h p i))
  else if spriteAvail s o w h i = 0 then some (spriteRecord s o w h p i 2 (List.replicate (gridPixels w h) 0x00AAAAAA))
  else none

/-- What sprite i adds to the reports: FrameTooLarge, or TruncatedTileData with a short buffer (R233). -/
def spriteReported (s : State) (o : Nat) (w h : BitVec 8) (i : Nat) : Option HostReport :=
  if s.fbMaxPixels < gridPixels w h then some (.sprite i 6 (gridPixels w h))
  else if spriteAvail s o w h i = gridBytes w h ∨ spriteAvail s o w h i = 0 then none
  else some (.sprite i 3 (spriteAvail s o w h i))

/-- The source requests of a SEARCH, in order (R235); a sprite that does not fit the frame buffer raises FrameTooLarge before its
request (20_memory.md R86). -/
def searchRequests (s : State) (o : Nat) (w h : BitVec 8) (p count : Nat) : List SrcRequest :=
  if s.srcEn = false then []
  else ⟨BitVec.ofNat 32 p, 32⟩ ::
    if (searchPaletteError s p).isSome ∨ s.fbMaxPixels < gridPixels w h then []
    else (List.range count).map fun i => ⟨BitVec.ofNat 32 (o + i * gridBytes w h), gridBytes w h⟩

/-- The result of a SEARCH (R233, R234). -/
def searchRecords (s : State) (o : Nat) (w h : BitVec 8) (p count : Nat) : List SpriteRecord :=
  if (searchPaletteError s p).isSome then [] else (List.range count).filterMap (spriteFound s o w h p)

/-- The reports of a SEARCH (R233); the form of the palette load's report is log 22's. -/
def searchReports (s : State) (o : Nat) (w h : BitVec 8) (p count : Nat) : List HostReport :=
  match searchPaletteError s p with
  | some e => [.palette e]
  | none => (List.range count).filterMap (spriteReported s o w h)

/-- The host's next action is an MMIO access. -/
def HostCtx.atAccess (c : HostCtx) : Prop :=
  ∃ r, (∃ e, c.program[c.pc]? = some (.wr r e)) ∨ ∃ x, c.program[c.pc]? = some (.rd r x)

/-- `n` actions of the host's own, none an access, lead from `c` to `d`. -/
def HostCtx.leadsTo : Nat → HostCtx → HostCtx → Prop
  | 0, c, d => d = c
  | n + 1, c, d => ∃ op e, c.program[c.pc]? = some op ∧ op.isAccess = false ∧ c.proceed op = .ok e ∧ e.leadsTo n d

/-- The host program has an access still to make (44_host_sprite_reader.md R237, log 15). -/
def HostCtx.accessComes (c : HostCtx) : Prop := ∃ n d, c.leadsTo n d ∧ d.atAccess

/-- The bytes of the source at `a .. a + n − 1` are the same in both states. -/
def sameBytes (s t : State) (a n : Nat) : Prop := ∀ k < n, srcRead s (a + k) = srcRead t (a + k)

/-- `n` steps from `s` lead to `t`. -/
def reaches (n : Nat) (s t : State) : Prop := Sys2Proof.core.run n s = .next t

end Sys2Proof.Machine
end

