-- ==== Sys2Proof/Certificates/Slice0/Obligations.lean ====
section
/-! DEFINITION. The statements for the provers. Each docstring names the rules of spec/ it rests on. -/

open Sys2Proof Sys2Proof.Machine

/-! ## Encoding -/

/-- R111, R112, R120: every operand value of every well-formed command survives encoding and decoding. -/
def Obligations.DecodeOfEncodeIsTheCommand : Prop :=
  ∀ i : Instr, i.wf = true → decode (encode i) = .ok i

/-- R115, R118: every word the decoder accepts is the encoding of the well-formed command it answers, so each word has one
meaning and each command one word. -/
def Obligations.EncodeOfDecodeIsTheWord : Prop :=
  ∀ (v : Word) (i : Instr), decode v = .ok i → i.wf = true ∧ encode i = v

/-- R115: the decoder is the pseudocode `Decode(v)`, with the fields taken arithmetically from the word's number. -/
def Obligations.DecodeFollowsItsPseudocode : Prop :=
  ∀ v : Word,
    (decode v).toOption =
      if v.toNat / 16 % 16 ≠ 0 ∨ v.toNat / 16777216 ≠ 0 then none
      else if v.toNat % 16 < 4 then
        if v.toNat / 256 % 256 ≠ 0 ∨ v.toNat / 65536 % 256 ≠ 0 then none
        else [Instr.nop, Instr.pload, Instr.pclr, Instr.tunpk][v.toNat % 16]?
      else if v.toNat % 16 < 6 then
        if v.toNat / 256 % 256 = 0 ∨ v.toNat / 65536 % 256 = 0 then none
        else if v.toNat % 16 = 4 then
          some (.asm (BitVec.ofNat 8 (v.toNat / 256 % 256)) (BitVec.ofNat 8 (v.toNat / 65536 % 256)))
        else some (.phold (BitVec.ofNat 8 (v.toNat / 256 % 256)) (BitVec.ofNat 8 (v.toNat / 65536 % 256)))
      else none

/-- R120: the words of the six forms. -/
def Obligations.EncodingsAreTheSpecsWords : Prop :=
  encode .nop = 0x00000000 ∧ encode .pload = 0x00000001 ∧ encode .pclr = 0x00000002 ∧ encode .tunpk = 0x00000003 ∧
  ∀ w h : BitVec 8,
    (encode (.asm w h)).toNat = (h.toNat <<< 16) ||| (w.toNat <<< 8) ||| 0x4 ∧
    (encode (.phold w h)).toNat = (h.toNat <<< 16) ||| (w.toNat <<< 8) ||| 0x5

/-- R114, R116, R117, R120: words written out from the spec, and the illegal words of 95_test_vectors.md V48, V49, V60, V62–V67. -/
def Obligations.SampleWordsDecodeAsWritten : Prop :=
  decode 0x00000000 = .ok .nop ∧ decode 0x00000001 = .ok .pload ∧ decode 0x00000002 = .ok .pclr ∧
  decode 0x00000003 = .ok .tunpk ∧ decode 0x00010104 = .ok (.asm 1 1) ∧ decode 0x0001FF04 = .ok (.asm 255 1) ∧
  decode 0x00030205 = .ok (.phold 2 3) ∧
  decode 0x00010004 = .error .zeroGrid ∧ decode 0x00000104 = .error .zeroGrid ∧ decode 0x00030005 = .error .zeroGrid ∧
  decode 0x00000100 = .error .unexpectedGrid ∧ decode 0x00000203 = .error .unexpectedGrid ∧
  decode 0x00000006 = .error .reservedOpcode ∧ decode 0x0000000F = .error .reservedOpcode ∧
  decode 0x00000011 = .error .reservedBits ∧ decode 0x01010104 = .error .reservedBits

/-! ## The engine's step -/

/-- R13, R213: a BUSY engine's turn runs the latched command, and the step adds nothing but taking the input from the list. With no
input left the step is the engine's turn too: that is log 1's choice (the quiet turn), not the rules'. -/
def Obligations.StepRunsTheDecodedCommand : Prop :=
  ∀ (s : State) (i : Instr), s.busy = true → decode s.latch.cmd = .ok i →
    (s.events = [] → step s = exec i s) ∧
    (∀ rest, s.events = .engine :: rest → step s = exec i { s with events := rest })

/-- Log 10 (the model's own placing of a word): the very next step of a state with a placed word runs that word's command on the
state an acceptance (R211) leaves. -/
def Obligations.PlacedWordRunsNext : Prop :=
  ∀ (s : State) (nbits w : Nat) (i : Instr), decodeTableWord nbits w = some i →
    step (s.withFetchWord nbits w) = exec i (accept (tableWord nbits w) s)

/-- R215, R116: an illegal word completes with code 1 and the whole word as ERRINFO, and nothing else is written; the worked
example 0x00000006 leaves STATUS 0x00000102 and ERRINFO 6. -/
def Obligations.IllegalWordReportsItself : Prop :=
  (∀ (s : State) (rest : List Event) (r : Illegal),
    s.busy = true → s.events = .engine :: rest → decode s.latch.cmd = .error r →
      step s = .next { s with events := rest, err := 1#4, errInfo := s.latch.cmd, busy := false, done := true }) ∧
  (∀ (s : State) (rest : List Event), s.ovr = false → s.events = .engine :: rest →
    ∃ t, step (accept 0x00000006 s) = .next t ∧ regValue t .status = 0x00000102 ∧ regValue t .errInfo = 0x00000006 ∧
      regValue t .cmd = 0x00000006)

/-- R250: every command completes, whatever the state: with success or one error code, BUSY 0 and DONE 1, and the next CMD write
is accepted. No command faults or is refused. -/
def Obligations.EveryCommandCompletesWithOneOutcome : Prop :=
  ∀ (i : Instr) (s : State), ∃ t, exec i s = .next t ∧ t.busy = false ∧ t.done = true ∧ t.err.toNat ≤ 6 ∧
    (t.err = 0#4 → t.errInfo = 0#32) ∧ ∀ v, writeReg .cmd v t = accept v t

/-- R255: a completion with an error, of a command or of an illegal word, writes STATUS.ERR, ERRINFO, BUSY and DONE and nothing else of the block; the source port's
trace is the model's own. -/
def Obligations.ErrorsWriteNoResult : Prop :=
  ∀ s t : State, complete s = .next t → t.err ≠ 0#4 →
    t = { s with err := t.err, errInfo := t.errInfo, busy := false, done := true, requests := t.requests }

/-- R86: the one request a command makes, and when: never for NOP, PCLR and PHOLD; for PLOAD, TUNPK and ASM exactly when the
length check is reached. -/
def Obligations.RequestsOnTheSourcePort : Prop :=
  ∀ (i : Instr) (s t : State), exec i s = .next t →
    t.requests = s.requests ++
      match i with
      | .nop => []
      | .pclr => []
      | .phold _ _ => []
      | .pload => if s.latch.srcEn then [⟨s.latch.addr, 32⟩] else []
      | .tunpk => if s.latch.srcEn then [⟨s.latch.addr, 32⟩] else []
      | .asm w h =>
        if 64 * w.toNat * h.toNat ≤ s.fbMaxPixels ∧ s.palCount ≠ 0#5 ∧ s.latch.srcEn = true
        then [⟨s.latch.addr, 32 * w.toNat * h.toNat⟩] else []

/-- R85: a request past the end of the source is short, one at or past the end has no data, and no command uses a short buffer
to produce output. -/
def Obligations.ShortBuffersAreNeverDecoded : Prop :=
  (∀ len a n : Nat, len < a + n → avail len a n < n ∨ n = 0) ∧
  (∀ len a n : Nat, len ≤ a → avail len a n = 0) ∧
  (∀ len a n : Nat, a + n ≤ len → avail len a n = n ∨ n = 0) ∧
  ∀ (i : Instr) (s t : State) (need : Nat), i.wf = true → sourceNeed i = some need →
    s.latch.srcLen.toNat < s.latch.addr.toNat + need → exec i s = .next t →
      t.err ≠ 0#4 ∧ t.pal = s.pal ∧ t.palCount = s.palCount ∧ t.palOff = s.palOff ∧ t.tidx = s.tidx ∧ t.fb = s.fb ∧
      t.fbKind = s.fbKind ∧ t.fbGridW = s.fbGridW ∧ t.fbGridH = s.fbGridH ∧ t.fbOff = s.fbOff ∧
      t.fbDimW = s.fbDimW ∧ t.fbDimH = s.fbDimH

/-- R114, R149, R163, R186 (92_eei_decisions.md D35): each command writes only its own result, and no command writes a host
register, the source, the parameter, or the host's side of the machine. -/
def Obligations.CommandsWriteOnlyTheirOwnResult : Prop :=
  ∀ (i : Instr) (s t : State), exec i s = .next t →
    (i ≠ .pload → t.pal = s.pal) ∧
    (i ≠ .pload → i ≠ .pclr → t.palCount = s.palCount ∧ t.palOff = s.palOff) ∧
    (i ≠ .tunpk → t.tidx = s.tidx) ∧
    ((∀ w h, i ≠ .asm w h ∧ i ≠ .phold w h) →
      t.fb = s.fb ∧ t.fbKind = s.fbKind ∧ t.fbGridW = s.fbGridW ∧ t.fbGridH = s.fbGridH ∧ t.fbOff = s.fbOff ∧
      t.fbDimW = s.fbDimW ∧ t.fbDimH = s.fbDimH) ∧
    t.srcEn = s.srcEn ∧ t.ovr = s.ovr ∧ t.cmd = s.cmd ∧ t.addr = s.addr ∧ t.srcLen = s.srcLen ∧ t.latch = s.latch ∧
    t.fbMaxPixels = s.fbMaxPixels ∧ (∀ a, srcRead t a = srcRead s a) ∧ t.src = s.src ∧
    t.readData = s.readData ∧ t.draws = s.draws ∧ t.host = s.host ∧ t.events = s.events

/-- R213, R60, R186: a completion is a function of L, the palette lookup RAM, FB_MAX_PIXELS and the bytes the command reads:
states that agree on these get the same outcome and the same results. -/
def Obligations.CompletionDependsOnlyOnItsInputs : Prop :=
  ∀ (i : Instr) (s t : State), s.latch = t.latch → s.pal = t.pal → s.palCount = t.palCount →
    s.fbMaxPixels = t.fbMaxPixels → sameBytes s t s.latch.addr.toNat ((sourceNeed i).getD 0) →
    ∃ s' t', exec i s = .next s' ∧ exec i t = .next t' ∧ s'.err = t'.err ∧ s'.errInfo = t'.errInfo ∧
      s'.busy = t'.busy ∧ s'.done = t'.done ∧ s'.pal = t'.pal ∧ s'.palCount = t'.palCount ∧
      ((i = .pload ∨ i = .pclr) → s'.err = 0#4 → s'.palOff = t'.palOff) ∧
      (i = .tunpk → s'.err = 0#4 → s'.tidx = t'.tidx) ∧
      ∀ w h, (i = .asm w h ∨ i = .phold w h) → s'.err = 0#4 →
        s'.fbKind = t'.fbKind ∧ s'.fbGridW = t'.fbGridW ∧ s'.fbGridH = t'.fbGridH ∧ s'.fbOff = t'.fbOff ∧
        s'.fbDimW = t'.fbDimW ∧ s'.fbDimH = t'.fbDimH ∧
        ∀ k < 64 * w.toNat * h.toNat, fbEntry s' k = fbEntry t' k

/-- R61: "Idempotence holds": completing the same command again from the same L, palette and source changes nothing but the
source port's trace. -/
def Obligations.CompletingAgainWritesTheSame : Prop :=
  ∀ (i : Instr) (s t u : State), exec i s = .next t → exec i t = .next u → u = { t with requests := u.requests }

/-! ## NOP, the palette commands -/

/-- R214: NOP completes with the common completion writes only; its word is 0, every other word with OP = 0 is illegal, and from
reset it leaves STATUS = 2 and every other register as it was. -/
def Obligations.NopOnlyCompletes : Prop :=
  (∀ s : State, exec .nop s = .next { s with err := 0#4, errInfo := 0#32, busy := false, done := true }) ∧
  encode .nop = 0x00000000 ∧
  (∀ v : Word, v.toNat % 16 = 0 → v ≠ 0#32 → ∃ r, decode v = .error r) ∧
  ∃ t, exec .nop (accept 0x00000000 State.reset) = .next t ∧ regValue t .status = 0x00000002 ∧
    ∀ r : Reg, r ≠ .status → regValue t r = regValue State.reset r

/-- R141, R140: the three channels of a 15-bit colour; each is a multiple of 8 in 0..248, and bit 15 has no effect. -/
def Obligations.ColourDecodesByItsFormulas : Prop :=
  ∀ c : BitVec 16,
    (col15 c).r = c.extractLsb' 0 5 ++ 0#3 ∧ (col15 c).g = c.extractLsb' 5 5 ++ 0#3 ∧ (col15 c).b = c.extractLsb' 10 5 ++ 0#3 ∧
    (col15 c).r.toNat = (c.toNat &&& 0x001F) * 8 ∧ (col15 c).g.toNat = ((c.toNat &&& 0x03E0) >>> 5) * 8 ∧
    (col15 c).b.toNat = ((c.toNat &&& 0x7C00) >>> 10) * 8 ∧
    (col15 c).r.toNat ≤ 248 ∧ (col15 c).g.toNat ≤ 248 ∧ (col15 c).b.toNat ≤ 248 ∧
    Rgb.scaled (col15 c) = true ∧ col15 (c ||| 0x8000) = col15 c

/-- R142, R143, R87: a PLOAD whose 32 bytes are there completes: entry j is the little-endian colour at L.ADDR + 2j, PAL_COUNT is
16, PAL_OFF is L.ADDR, and nothing else changes but the completion writes and the port's trace. -/
def Obligations.PloadLoadsThePalette : Prop :=
  ∀ s : State, s.latch.srcEn = true → s.latch.addr.toNat + 32 ≤ s.latch.srcLen.toNat →
    ∃ t, exec .pload s = .next t ∧
      (∀ j : Fin 16, ∀ c : Nat,
        c = (srcRead s (s.latch.addr.toNat + 2 * j.val)).toNat + 256 * (srcRead s (s.latch.addr.toNat + 2 * j.val + 1)).toNat →
          (t.pal[j]).r.toNat = 8 * (c % 32) ∧ (t.pal[j]).g.toNat = 8 * (c / 32 % 32) ∧
          (t.pal[j]).b.toNat = 8 * (c / 1024 % 32) ∧ regValue t (.pal j) = rgbWord t.pal[j]) ∧
      t = { s with pal := t.pal, palCount := 16#5, palOff := s.latch.addr, err := 0#4, errInfo := 0#32, busy := false,
                   done := true, requests := s.requests ++ [⟨s.latch.addr, 32⟩] }

/-- R144: PLOAD's two errors, in order; the palette lookup RAM, PAL_COUNT and PAL_OFF keep their values. -/
def Obligations.PloadErrorsKeepThePalette : Prop :=
  ∀ s : State,
    (s.latch.srcEn = false → exec .pload s = .next { s with err := 2#4, errInfo := 0#32, busy := false, done := true }) ∧
    (s.latch.srcEn = true → s.latch.srcLen.toNat < s.latch.addr.toNat + 32 →
      exec .pload s = .next { s with
        err := 4#4, errInfo := BitVec.ofNat 32 (s.latch.srcLen.toNat - s.latch.addr.toNat), busy := false, done := true,
        requests := s.requests ++ [⟨s.latch.addr, 32⟩] })

/-- R146, R147: PCLR completes from every state, empties the palette, keeps the entries, and every PAL[i] then reads 0; its word
is 2, and every other word with OP = 2 is illegal. -/
def Obligations.PclrEmptiesThePalette : Prop :=
  encode .pclr = 0x00000002 ∧
  (∀ v : Word, v.toNat % 16 = 2 → v ≠ 2#32 → ∃ r, decode v = .error r) ∧
  ∀ s : State, ∃ t, exec .pclr s = .next t ∧
    t = { s with palCount := 0#5, palOff := 0#32, err := 0#4, errInfo := 0#32, busy := false, done := true } ∧
    regValue t .palCount = 0#32 ∧ regValue t .palOff = 0#32 ∧ ∀ i : Fin 16, regValue t (.pal i) = 0#32

/-! ## The tile unpacker -/

/-- R161, R162, R163: a TUNPK whose 32 bytes are there completes: column 2j is the low and column 2j + 1 the high nibble of byte
4r + j, and nothing else changes but the completion writes and the port's trace. -/
def Obligations.TunpkUnpacksTheTile : Prop :=
  ∀ s : State, s.latch.srcEn = true → s.latch.addr.toNat + 32 ≤ s.latch.srcLen.toNat →
    ∃ t, exec .tunpk s = .next t ∧
      (∀ (r : Fin 8) (j : Nat) (_ : j < 4) (b : Nat), b = (srcRead s (s.latch.addr.toNat + (4 * r.val + j))).toNat →
        (t.tidx[r][2 * j]).toNat = b % 16 ∧ (t.tidx[r][2 * j + 1]).toNat = b / 16) ∧
      t = { s with tidx := t.tidx, err := 0#4, errInfo := 0#32, busy := false, done := true,
                   requests := s.requests ++ [⟨s.latch.addr, 32⟩] }

/-- R164: TUNPK's two errors, in order; TIDX keeps its value. -/
def Obligations.TunpkErrorsKeepTheTile : Prop :=
  ∀ s : State,
    (s.latch.srcEn = false → exec .tunpk s = .next { s with err := 2#4, errInfo := 0#32, busy := false, done := true }) ∧
    (s.latch.srcEn = true → s.latch.srcLen.toNat < s.latch.addr.toNat + 32 →
      exec .tunpk s = .next { s with
        err := 3#4, errInfo := BitVec.ofNat 32 (s.latch.srcLen.toNat - s.latch.addr.toNat), busy := false, done := true,
        requests := s.requests ++ [⟨s.latch.addr, 32⟩] })

/-- R52: TIDX_ROW[r], at offset 0x00080 + 4r, holds column c at bits 4c+3:4c, resets to 0 and ignores writes. -/
def Obligations.TileRowRegisterPacksItsColumns : Prop :=
  ∀ (s : State) (r c : Fin 8),
    (regValue s (.tidxRow r)).extractLsb' (4 * c.val) 4 = s.tidx[r][c] ∧
    (∀ v, writeReg (.tidxRow r) v s = s) ∧ (Reg.tidxRow r).offset = 0x00080 + 4 * r.val ∧
    regValue State.reset (.tidxRow r) = 0#32

/-- R166: after a successful TUNPK, TIDX_ROW[r] reads the row's four bytes as a little-endian word. -/
def Obligations.TileRowReadsBackItsBytes : Prop :=
  ∀ (s : State) (r : Fin 8), s.latch.srcEn = true → s.latch.addr.toNat + 32 ≤ s.latch.srcLen.toNat →
    ∃ t, exec .tunpk s = .next t ∧
      regValue t (.tidxRow r) =
        srcRead s (s.latch.addr.toNat + (4 * r.val + 3)) ++ srcRead s (s.latch.addr.toNat + (4 * r.val + 2)) ++
        srcRead s (s.latch.addr.toNat + (4 * r.val + 1)) ++ srcRead s (s.latch.addr.toNat + 4 * r.val)

/-! ## The raster assembler -/

/-- R182, R180, R161: the index of pixel (x, y) is the nibble x % 8 % 2 of the mapper's byte, and the one the unpacker finds in tile (y/8, x/8) at
row y % 8 and column x % 8. -/
def Obligations.MapperAgreesWithUnpacker : Prop :=
  ∀ (t : Nat → Byte) (a w x y : Nat),
    (pixelIndex t a w x y).toNat =
      (t (a + 32 * (y / 8 * w + x / 8) + 4 * (y % 8) + x % 8 / 2)).toNat / 2 ^ (4 * (x % 8 % 2)) % 16 ∧
    pixelIndex t a w x y = unpackAt (gridTile t a w (y / 8) (x / 8)) (y % 8) (x % 8)

/-- R184, R181, R183: the source's scan loop and the closed form list the same indices in the same order, for every grid. -/
def Obligations.ScanLoopEqualsClosedForm : Prop :=
  ∀ (t : Nat → Byte) (a w h : Nat), scanIndices t a w h = rasterIndices t a w h

/-- R185, R186, R183: an ASM that fits, with a palette, an available source and all its bytes, completes: pixel (x, y) is the
palette's colour for the mapper's nibble, the image registers read as the rule says, frame-buffer entries past the image keep
their values, and nothing else changes but the completion writes and the port's trace. -/
def Obligations.AsmAssemblesTheImage : Prop :=
  ∀ (s : State) (w h : BitVec 8), 64 * w.toNat * h.toNat ≤ s.fbMaxPixels → s.palCount ≠ 0#5 → s.latch.srcEn = true →
    s.latch.addr.toNat + 32 * w.toNat * h.toNat ≤ s.latch.srcLen.toNat → w ≠ 0#8 → h ≠ 0#8 →
    ∃ t, exec (.asm w h) s = .next t ∧
      (∀ (x y b : Nat) (n : Nibble), x < 8 * w.toNat → y < 8 * h.toNat →
        b = (srcRead s (s.latch.addr.toNat + 32 * (y / 8 * w.toNat + x / 8) + 4 * (y % 8) + x % 8 / 2)).toNat →
        n.toNat = (if x % 2 = 0 then b % 16 else b / 16) →
          fbEntry t (y * (8 * w.toNat) + x) = palLookup s n ∧
          regValue t (.fb (y * (8 * w.toNat) + x)) = rgbWord (palLookup s n)) ∧
      (∀ k, 64 * w.toNat * h.toNat ≤ k → fbEntry t k = fbEntry s k ∧ regValue t (.fb k) = 0#32) ∧
      regValue t .fbKind = 1#32 ∧ (regValue t .fbGrid).toNat = 256 * h.toNat + w.toNat ∧ regValue t .fbOff = s.latch.addr ∧
      (regValue t .fbDim).toNat = 65536 * (8 * h.toNat) + 8 * w.toNat ∧
      t = { s with fb := t.fb, fbKind := t.fbKind, fbGridW := t.fbGridW, fbGridH := t.fbGridH, fbOff := t.fbOff,
                   fbDimW := t.fbDimW, fbDimH := t.fbDimH, err := 0#4, errInfo := 0#32, busy := false, done := true,
                   requests := s.requests ++ [⟨s.latch.addr, 32 * w.toNat * h.toNat⟩] }

/-- R187, R254: ASM's errors in their order, the first that applies; no frame-buffer entry or image register changes. The words
with a zero grid or reserved bits are illegal (first bullet). -/
def Obligations.AsmErrorsInTheirOrder : Prop :=
  (∀ s : State, opField s.latch.cmd = 4#4 →
    (wField s.latch.cmd = 0#8 ∨ hField s.latch.cmd = 0#8 ∨ rsv0Field s.latch.cmd ≠ 0#4 ∨ rsv1Field s.latch.cmd ≠ 0#8) →
      complete s = .next { s with err := 1#4, errInfo := s.latch.cmd, busy := false, done := true }) ∧
  ∀ (s : State) (w h : BitVec 8),
    (s.fbMaxPixels < 64 * w.toNat * h.toNat →
      exec (.asm w h) s = .next { s with
        err := 6#4, errInfo := BitVec.ofNat 32 (64 * w.toNat * h.toNat), busy := false, done := true }) ∧
    (64 * w.toNat * h.toNat ≤ s.fbMaxPixels → s.palCount = 0#5 →
      exec (.asm w h) s = .next { s with err := 5#4, errInfo := 0#32, busy := false, done := true }) ∧
    (64 * w.toNat * h.toNat ≤ s.fbMaxPixels → s.palCount ≠ 0#5 → s.latch.srcEn = false →
      exec (.asm w h) s = .next { s with err := 2#4, errInfo := 0#32, busy := false, done := true }) ∧
    (64 * w.toNat * h.toNat ≤ s.fbMaxPixels → s.palCount ≠ 0#5 → s.latch.srcEn = true → w ≠ 0#8 → h ≠ 0#8 →
      s.latch.srcLen.toNat < s.latch.addr.toNat + 32 * w.toNat * h.toNat →
      exec (.asm w h) s = .next { s with
        err := 3#4, errInfo := BitVec.ofNat 32 (s.latch.srcLen.toNat - s.latch.addr.toNat), busy := false, done := true,
        requests := s.requests ++ [⟨s.latch.addr, 32 * w.toNat * h.toNat⟩] })

/-- R192, R193: a PHOLD that fits completes from every state, without palette or source: every pixel reads 0x00AAAAAA, the image
registers read as the rule says, frame-buffer entries past the image keep their values, and nothing else changes. -/
def Obligations.PholdFillsThePlaceholder : Prop :=
  ∀ (s : State) (w h : BitVec 8), 64 * w.toNat * h.toNat ≤ s.fbMaxPixels →
    ∃ t, exec (.phold w h) s = .next t ∧
      (∀ k < 64 * w.toNat * h.toNat, fbEntry t k = ⟨170, 170, 170⟩ ∧ regValue t (.fb k) = 0x00AAAAAA) ∧
      (∀ k, 64 * w.toNat * h.toNat ≤ k → fbEntry t k = fbEntry s k ∧ regValue t (.fb k) = 0#32) ∧
      regValue t .fbKind = 2#32 ∧ (regValue t .fbGrid).toNat = 256 * h.toNat + w.toNat ∧ regValue t .fbOff = s.latch.addr ∧
      (regValue t .fbDim).toNat = 65536 * (8 * h.toNat) + 8 * w.toNat ∧
      t = { s with fb := t.fb, fbKind := t.fbKind, fbGridW := t.fbGridW, fbGridH := t.fbGridH, fbOff := t.fbOff,
                   fbDimW := t.fbDimW, fbDimH := t.fbDimH, err := 0#4, errInfo := 0#32, busy := false, done := true }

/-- R188: FrameTooLarge exactly when 64·W·H > FB_MAX_PIXELS, with 64·W·H as info, for ASM and PHOLD; with the default capacity,
exactly when W·H > 1024. -/
def Obligations.FrameTooLargeExactlyPastCapacity : Prop :=
  ∀ (s : State) (w h : BitVec 8) (i : Instr), (i = .asm w h ∨ i = .phold w h) →
    ∃ t, exec i s = .next t ∧ (t.err = 6#4 ↔ s.fbMaxPixels < 64 * w.toNat * h.toNat) ∧
      (t.err = 6#4 → t.errInfo.toNat = 64 * w.toNat * h.toNat) ∧
      (s.fbMaxPixels = 65536 → (t.err = 6#4 ↔ 1024 < w.toNat * h.toNat))

/-- R194: the sentinel reads 0x00AAAAAA, no pixel word has bits 31:24, and no decoded palette colour is the sentinel. -/
def Obligations.NoDecodedColourIsTheSentinel : Prop :=
  rgbWord Config.sentinel = 0x00AAAAAA ∧ (∀ c : Rgb, (rgbWord c).toNat < 2 ^ 24) ∧ ∀ c : BitVec 16, col15 c ≠ Config.sentinel

/-! ## The invariant -/

/-- R195, R44, R46, R38, R55, R57 and the rest of `StateInv`: every step of every agent keeps the invariant, from every state that has
it. (`StateInv.busyLatch` rests on R40 and R60. A reset keeps `StateInv.palScaled` by log 4's choice of the entries after reset,
which R55 and R281 leave unspecified; `StateInv.srcWf` is the canonical form of log 3, `StateInv.varsWf` that of log 14's names.) -/
def Obligations.EveryStepKeepsTheInvariant : Prop :=
  ∀ s t : State, StateInv s → step s = .next t → StateInv t

/-- R281: the reset state has the invariant. Its clause about palette entries rests on log 4's choice. -/
def Obligations.ResetHasTheInvariant : Prop := StateInv State.reset

/-! ## Reset -/

/-- R281, R33: right after reset every register reads 0, but FB_CAP, which reads FB_MAX_PIXELS. -/
def Obligations.ResetValuesOfEveryRegister : Prop :=
  regValue State.reset .fbCap = BitVec.ofNat 32 State.reset.fbMaxPixels ∧
  (∀ r : Reg, r ≠ .fbCap → regValue State.reset r = 0#32) ∧
  State.reset.busy = false ∧ ∀ r c : Fin 8, State.reset.tidx[r][c] = 0#4

/-- R280, R261: a reset discards a command in flight without completing it, and every register then reads its reset value; the
byte source and the parameter are untouched. (That the port traces and the host side are untouched too is log 19's.) -/
def Obligations.ResetDiscardsTheCommandInFlight : Prop :=
  ∀ (s : State) (rest : List Event), s.events = .reset :: rest →
    ∃ t, step s = .next t ∧ t.busy = false ∧ t.done = false ∧ regValue t .fbCap = BitVec.ofNat 32 s.fbMaxPixels ∧
      (∀ r : Reg, r ≠ .fbCap → regValue t r = 0#32) ∧ t.fbMaxPixels = s.fbMaxPixels ∧ (∀ a, srcRead t a = srcRead s a) ∧
      t.src = s.src ∧ t.requests = s.requests ∧ t.readData = s.readData ∧ t.draws = s.draws ∧ t.host = s.host ∧ t.events = rest

/-- R282: the errors of the first commands after reset, and with the source made available but empty. -/
def Obligations.FirstCommandsAfterReset : Prop :=
  (∃ t, exec .pload (accept 1 State.reset) = .next t ∧ t.err = 2#4 ∧ t.errInfo = 0#32) ∧
  (∃ t, exec .tunpk (accept 3 State.reset) = .next t ∧ t.err = 2#4 ∧ t.errInfo = 0#32) ∧
  (∃ t, exec .pload (accept 1 (writeReg .ctrl 1 State.reset)) = .next t ∧ t.err = 4#4 ∧ t.errInfo = 0#32) ∧
  (∃ t, exec .tunpk (accept 3 (writeReg .ctrl 1 State.reset)) = .next t ∧ t.err = 3#4 ∧ t.errInfo = 0#32) ∧
  ∀ w h : BitVec 8, w.toNat * h.toNat ≤ 1024 →
    ∃ t, exec (.asm w h) (accept (encode (.asm w h)) State.reset) = .next t ∧ t.err = 5#4 ∧ t.errInfo = 0#32

/-! ## The MMIO window -/

/-- R33: the offsets of the table; and under a capacity R12 allows, the register map and the register offsets are inverse to each
other on the aligned offsets of the window. -/
def Obligations.RegisterMapIsInvertible : Prop :=
  (Reg.ctrl.offset = 0x00000 ∧ Reg.status.offset = 0x00004 ∧ Reg.cmd.offset = 0x00008 ∧ Reg.addr.offset = 0x0000C ∧
    Reg.srcLen.offset = 0x00010 ∧ Reg.errInfo.offset = 0x00014 ∧ Reg.palCount.offset = 0x00018 ∧ Reg.palOff.offset = 0x0001C ∧
    Reg.fbKind.offset = 0x00020 ∧ Reg.fbGrid.offset = 0x00024 ∧ Reg.fbOff.offset = 0x00028 ∧ Reg.fbDim.offset = 0x0002C ∧
    Reg.fbCap.offset = 0x00030 ∧ (∀ i : Fin 16, (Reg.pal i).offset = 0x00040 + 4 * i.val) ∧
    (∀ r : Fin 8, (Reg.tidxRow r).offset = 0x00080 + 4 * r.val) ∧ ∀ k, (Reg.fb k).offset = 0x10000 + 4 * k) ∧
  ∀ (cap : Nat), cap ≤ 65536 →
    (∀ r : Reg, (∀ k, r = .fb k → k < cap) → r.offset < 2 ^ 20 ∧ r.offset % 4 = 0 ∧ regAt cap r.offset = some r) ∧
    ∀ (off : Nat) (r : Reg), off % 4 = 0 → regAt cap off = some r → r.offset = off

/-- R39: the STATUS word `{20'b0, ERR, 5'b0, OVR, DONE, BUSY}` as a number, and a write to STATUS can change OVR only. -/
def Obligations.StatusWordHasItsLayout : Prop :=
  ∀ (s : State),
    (regValue s .status).toNat = 256 * s.err.toNat + 4 * s.ovr.toNat + 2 * s.done.toNat + s.busy.toNat ∧
    ∀ v, writeReg .status v s = { s with ovr := (writeReg .status v s).ovr }

/-- R19, R88: a colour word as a number, and a register word as its four little-endian byte lanes. -/
def Obligations.WordsAreTheirByteLanes : Prop :=
  (∀ c : Rgb, (rgbWord c).toNat = c.r.toNat + 256 * c.g.toNat + 65536 * c.b.toNat) ∧
  ∀ v : Word, v.toNat = (laneByte v 0).toNat + 256 * (laneByte v 1).toNat + 65536 * (laneByte v 2).toNat +
    16777216 * (laneByte v 3).toNat

/-- R34, R40–R51, R53: the value of every register but STATUS (`StatusWordHasItsLayout`) and TIDX_ROW
(`TileRowRegisterPacksItsColumns`), for every state. R92, R93, R33: a 32-bit read at a register's offset answers that register's
value and changes nothing else, while the value is defined: BUSY = 0, or no result register. Inside a SEARCH this holds of the
registers R237 does not protect. (The read-data bus is the model's field for the port of R80, log 8.) -/
def Obligations.ReadsAnswerTheRegister : Prop :=
  (∀ s : State,
    (regValue s .ctrl).toNat = s.srcEn.toNat ∧ regValue s .cmd = s.cmd ∧ regValue s .addr = s.addr ∧
    regValue s .srcLen = s.srcLen ∧ regValue s .errInfo = s.errInfo ∧ (regValue s .palCount).toNat = s.palCount.toNat ∧
    regValue s .palOff = s.palOff ∧ (regValue s .fbKind).toNat = s.fbKind.toNat ∧
    (regValue s .fbGrid).toNat = 256 * s.fbGridH.toNat + s.fbGridW.toNat ∧ regValue s .fbOff = s.fbOff ∧
    (regValue s .fbDim).toNat = 65536 * s.fbDimH.toNat + s.fbDimW.toNat ∧
    (s.fbMaxPixels ≤ 65536 → (regValue s .fbCap).toNat = s.fbMaxPixels) ∧
    (∀ i : Fin 16, regValue s (.pal i) = if s.palCount = 16#5 then rgbWord s.pal[i] else 0#32) ∧
    ∀ k, regValue s (.fb k) = if k < s.fbDimW.toNat * s.fbDimH.toNat then rgbWord (fbEntry s k) else 0#32) ∧
  ∀ (s : State) (r : Reg) (rest : List Event), s.fbMaxPixels ≤ 65536 → regExists s r = true →
    (s.host.inSearch = false ∨ (r ≠ .addr ∧ r ≠ .cmd ∧ r.isResult = false)) →
    s.events = .read (BitVec.ofNat 20 r.offset) 32 :: rest → (s.busy = false ∨ r.isResult = false) →
      step s = .next { s with events := rest, readData := regValue s r }

/-- R58: a read of any result register while BUSY = 1 answers a free draw, fresh for each read (log 7), and the stored state is
unchanged; CTRL, STATUS, CMD, ADDR, SRC_LEN, ERRINFO and FB_CAP are defined at all times, inside a SEARCH too where R237 does not
protect them. The statement holds whatever the free value is. -/
def Obligations.BusyResultReadsAreFreeDraws : Prop :=
  ∀ (s : State) (r : Reg) (rest : List Event), s.fbMaxPixels ≤ 65536 → regExists s r = true →
    s.events = .read (BitVec.ofNat 20 r.offset) 32 :: rest → s.busy = true →
      (r.isResult = true → s.host.inSearch = false →
        step s = .next { s with events := rest, readData := Config.busyRead s.draws, draws := s.draws + 1 }) ∧
      (r.isResult = false → (s.host.inSearch = false ∨ (r ≠ .addr ∧ r ≠ .cmd)) →
        step s = .next { s with events := rest, readData := regValue s r }) ∧
      (r.isResult = false ↔ r ∈ [Reg.ctrl, .status, .cmd, .addr, .srcLen, .errInfo, .fbCap])

/-- R54: the reserved ranges read 0 and ignore writes, at any time. -/
def Obligations.ReservedOffsetsReadZeroAndIgnoreWrites : Prop :=
  ∀ (s : State) (off : BitVec 20) (rest : List Event), off.toNat % 4 = 0 →
    (0x00034 ≤ off.toNat ∧ off.toNat ≤ 0x0003C ∨ 0x000A0 ≤ off.toNat ∧ off.toNat ≤ 0x0FFFC ∨
      0x10000 + 4 * s.fbMaxPixels ≤ off.toNat) →
      (s.events = .read off 32 :: rest → step s = .next { s with events := rest, readData := 0#32 }) ∧
      ∀ v, s.events = .write off 32 v :: rest → step s = .next { s with events := rest }

/-- R91: an access that is not 32 bits wide or not aligned is refused, and no state results. -/
def Obligations.AccessesOutsideTheContractAreRefused : Prop :=
  ∀ (s : State) (off : BitVec 20) (width : Nat) (v : Word) (rest : List Event),
    (width ≠ 32 ∨ off.toNat % 4 ≠ 0) → (s.events = .read off width :: rest ∨ s.events = .write off width v :: rest) →
      ∃ q, step s = .refused q ∧ (s.host.inSearch = false → q = .accessOutsideContract off.toNat width)

/-- R211: a CMD write with BUSY = 0 is an acceptance: CMD and L take the word and the operands, the flags are cleared, BUSY is
set, OVR and all else is unchanged, and the word is not decoded. -/
def Obligations.CmdWriteAcceptsWhenIdle : Prop :=
  ∀ (s : State) (v : Word) (rest : List Event), s.busy = false → s.host.inSearch = false →
    s.events = .write 0x00008 32 v :: rest →
      step s = .next { s with
        events := rest, cmd := v, latch := ⟨v, s.addr, s.srcLen, s.srcEn⟩, busy := true, done := false, err := 0#4, errInfo := 0#32 }

/-- R212: a CMD write with BUSY = 1 is dropped; its only effect is OVR. -/
def Obligations.CmdWriteIsDroppedWhenBusy : Prop :=
  ∀ (s : State) (v : Word) (rest : List Event), s.busy = true → s.host.inSearch = false →
    s.events = .write 0x00008 32 v :: rest → step s = .next { s with events := rest, ovr := true }

/-- R216, R34, R41, R42: writes to CTRL, ADDR and SRC_LEN take effect at once, whether or not BUSY = 1; L keeps its values, and
the next acceptance latches the new ones. R37: a write to STATUS clears OVR exactly when bit 2 of its data is 1, and changes nothing
else. R93: a write to any other register but CMD is ignored. Inside a SEARCH this holds of the registers R237 does not protect. -/
def Obligations.OperandWritesTakeEffectAtOnce : Prop :=
  ∀ (s : State) (v c : Word) (rest : List Event),
    (s.events = .write 0x00000 32 v :: rest →
      ∃ t, step s = .next t ∧ t = { s with events := rest, srcEn := v.toNat % 2 == 1 } ∧
        (accept c t).latch.srcEn = (v.toNat % 2 == 1)) ∧
    (s.events = .write 0x0000C 32 v :: rest → s.host.inSearch = false →
      ∃ t, step s = .next t ∧ t = { s with events := rest, addr := v } ∧ (accept c t).latch.addr = v) ∧
    (s.events = .write 0x00010 32 v :: rest →
      ∃ t, step s = .next t ∧ t = { s with events := rest, srcLen := v } ∧ (accept c t).latch.srcLen = v) ∧
    (s.events = .write 0x00004 32 v :: rest →
      step s = .next { s with events := rest, ovr := if v.toNat / 4 % 2 = 1 then false else s.ovr }) ∧
    ∀ r : Reg, s.fbMaxPixels ≤ 65536 → regExists s r = true → r ∉ [Reg.ctrl, .status, .cmd, .addr, .srcLen] →
      (s.host.inSearch = false ∨ r.isResult = false) → s.events = .write (BitVec.ofNat 20 r.offset) 32 v :: rest →
        step s = .next { s with events := rest }

/-! ## Whole-machine rules -/

/-- R35: BUSY is bit 0 of STATUS, 0 after reset, set by an acceptance only, and cleared by a completion or a reset only. -/
def Obligations.BusyChangesOnlyAsTheRuleSays : Prop :=
  (∀ s : State, (regValue s .status).toNat % 2 = s.busy.toNat) ∧ State.reset.busy = false ∧
  ∀ s t : State, step s = .next t →
    t.busy = match nextMove s with
      | .write .cmd _ => true
      | .complete => false
      | .reset => false
      | _ => s.busy

/-- R36: DONE is set by every completion, cleared by every acceptance and by reset, and nothing else changes it. -/
def Obligations.DoneChangesOnlyAsTheRuleSays : Prop :=
  ∀ s t : State, step s = .next t →
    t.done = match nextMove s with
      | .write .cmd _ => s.busy && s.done
      | .complete => true
      | .reset => false
      | _ => s.done

/-- R37: OVR is bit 2 of STATUS, 0 after reset, set by a CMD write while BUSY, cleared by a STATUS write with bit 2 and by reset, and nothing else changes it. -/
def Obligations.OverrunChangesOnlyAsTheRuleSays : Prop :=
  (∀ s : State, (regValue s .status).toNat / 4 % 2 = s.ovr.toNat) ∧ State.reset.ovr = false ∧
  ∀ s t : State, step s = .next t →
    t.ovr = match nextMove s with
      | .write .cmd _ => s.ovr || s.busy
      | .write .status v => s.ovr && !(v.toNat / 4 % 2 == 1)
      | .reset => false
      | _ => s.ovr

/-- R38, R43, R93, R256, R257: ERR is bits 11:8 of STATUS and ERRINFO its own register, both 0 after reset. An acceptance and a
reset clear them, a completion writes them with its outcome (the illegal word's, or that of its command), and nothing else changes
them; a write to ERRINFO is ignored. -/
def Obligations.ErrorRecordChangesOnlyAsTheRuleSays : Prop :=
  (∀ s : State, (regValue s .status).toNat / 256 % 16 = s.err.toNat ∧ regValue s .errInfo = s.errInfo ∧
    ∀ v, writeReg .errInfo v s = s) ∧
  State.reset.err = 0#4 ∧ State.reset.errInfo = 0#32 ∧
  ∀ s t : State, step s = .next t →
    (nextMove s = .complete →
      (∃ r, decode s.latch.cmd = .error r ∧ t.err = 1#4 ∧ t.errInfo = s.latch.cmd) ∨
      ∃ i u, decode s.latch.cmd = .ok i ∧ exec i s = .next u ∧ t.err = u.err ∧ t.errInfo = u.errInfo) ∧
    (nextMove s ≠ .complete →
      t.err = (match nextMove s with
        | .write .cmd _ => if s.busy then s.err else 0#4
        | .reset => 0#4
        | _ => s.err) ∧
      t.errInfo = match nextMove s with
        | .write .cmd _ => if s.busy then s.errInfo else 0#32
        | .reset => 0#32
        | _ => s.errInfo)

/-- R34, R40, R41, R42, R60: the host registers and L change by a host write to them and by reset only; CMD and L by an
acceptance only. (L at reset is log 6's choice.) -/
def Obligations.HostRegistersChangeOnlyByHostWrites : Prop :=
  ∀ s t : State, step s = .next t →
    (t.srcEn = match nextMove s with | .write .ctrl v => v.toNat % 2 == 1 | .reset => false | _ => s.srcEn) ∧
    (t.addr = match nextMove s with | .write .addr v => v | .reset => 0#32 | _ => s.addr) ∧
    (t.srcLen = match nextMove s with | .write .srcLen v => v | .reset => 0#32 | _ => s.srcLen) ∧
    (t.cmd = match nextMove s with | .write .cmd v => (if s.busy then s.cmd else v) | .reset => 0#32 | _ => s.cmd) ∧
    (t.latch = match nextMove s with
      | .write .cmd v => (if s.busy then s.latch else ⟨v, s.addr, s.srcLen, s.srcEn⟩)
      | .reset => Latch.reset
      | _ => s.latch)

/-- R58, R93, R97: no host access, source change or host business changes a result: results change in a completion or a reset
only. -/
def Obligations.ResultsChangeOnlyInCompletionOrReset : Prop :=
  ∀ s t : State, step s = .next t → nextMove s ≠ .complete → nextMove s ≠ .reset →
    t.pal = s.pal ∧ t.palCount = s.palCount ∧ t.palOff = s.palOff ∧ t.tidx = s.tidx ∧ t.fb = s.fb ∧ t.fbKind = s.fbKind ∧
    t.fbGridW = s.fbGridW ∧ t.fbGridH = s.fbGridH ∧ t.fbOff = s.fbOff ∧ t.fbDimW = s.fbDimW ∧ t.fbDimH = s.fbDimH

/-- R149: the palette lookup RAM changes only by PLOAD, PCLR and reset. -/
def Obligations.PaletteChangesOnlyByPloadPclrReset : Prop :=
  ∀ s t : State, step s = .next t → (t.pal ≠ s.pal ∨ t.palCount ≠ s.palCount ∨ t.palOff ≠ s.palOff) →
    nextMove s = .reset ∨
    nextMove s = .complete ∧ (decode s.latch.cmd = .ok .pload ∨ decode s.latch.cmd = .ok .pclr)

/-- R82, R12: no step but the host's own source change changes the byte source, and no step changes FB_MAX_PIXELS. -/
def Obligations.SourceAndCapacityAreTheHosts : Prop :=
  ∀ s t : State, step s = .next t →
    t.fbMaxPixels = s.fbMaxPixels ∧ ((∀ a b rest, s.events ≠ .source a b :: rest) → t.src = s.src)

/-- R291: a change of a byte that a BUSY PLOAD, TUNPK or ASM reads is refused; outside that window, with a BUSY engine that reads
nothing (NOP, PCLR, PHOLD, an illegal word), or with BUSY = 0, the host's change is made and is seen by the next read. Writing the
byte that is there is no change, and is let pass in the window too (log 12). -/
def Obligations.SourceIsStableWhileACommandReadsIt : Prop :=
  ∀ (s : State) (a : Word) (b : Byte) (rest : List Event), s.events = .source a b :: rest →
    (∀ (i : Instr) (need : Nat), s.busy = true → decode s.latch.cmd = .ok i → sourceNeed i = some need →
      (s.latch.addr.toNat ≤ a.toNat ∧ a.toNat < s.latch.addr.toNat + need → srcRead s a.toNat ≠ b →
        step s = .refused (.sourceChangedWhileRead a)) ∧
      (¬ (s.latch.addr.toNat ≤ a.toNat ∧ a.toNat < s.latch.addr.toNat + need) ∨ srcRead s a.toNat = b → Memory.wf s.src = true →
        ∃ t, step s = .next t ∧ sourceChanged s rest a b t)) ∧
    (s.busy = false ∨ (∃ r, decode s.latch.cmd = .error r) ∨ (∃ i, decode s.latch.cmd = .ok i ∧ sourceNeed i = none) →
      Memory.wf s.src = true → ∃ t, step s = .next t ∧ sourceChanged s rest a b t)

/-- 93_implementation_defined.md S2, S3, S4 (R55, R57, R60): what the spec leaves unspecified is never observable: two states that
differ only there take steps of one kind, to states that again differ only there; every register, read value, request and host
record stays equal. -/
def Obligations.UnspecifiedStorageIsNeverObserved : Prop :=
  (∀ s t : State, ObsEq s t → outcomesRelated ObsEq (step s) (step t)) ∧
  ∀ (s t : State) (r : Reg), ObsEq s t → regValue t r = regValue s r

/-- R294, R13: an accepted command completes: when no reset is to come and no step stops, some state within one step more than
the inputs to come has BUSY = 0 and DONE = 1. (That the engine moves when no input is left is log 1's choice.) -/
def Obligations.AcceptedCommandsComplete : Prop :=
  ∀ s : State, s.busy = true → (∀ e ∈ s.events, e ≠ .reset) →
    (∀ n ≤ s.events.length + 1, ∃ t, reaches n s t) →
    ∃ n t, n ≤ s.events.length + 1 ∧ reaches n s t ∧ t.busy = false ∧ t.done = true

/-! ## The host agent -/

/-- R121: `WR <reg>, <value>` of a host program is one 32-bit write of the register, and `RD <reg> -> <name>` one 32-bit read
whose value the name then holds; a result register read while BUSY gives the name a free draw (R58, log 7). A value that does not
fit 32 bits writes a free draw (log 16's choice), but a source length that does not fit is refused (R230). The statement holds
whatever the free values are. -/
def Obligations.HostProgramAccessesAreMmioAccesses : Prop :=
  ∀ (s : State) (r : Reg) (rest : List Event), s.fbMaxPixels ≤ 65536 → regExists s r = true → s.events = .host :: rest →
    (∀ e : HostExpr, s.host.program[s.host.pc]? = some (.wr r e) → e.eval s.host < 2 ^ 32 →
      step s = .next (writeReg r (BitVec.ofNat 32 (e.eval s.host))
        { s with events := rest, host := { s.host with pc := s.host.pc + 1 } })) ∧
    (∀ e : HostExpr, s.host.program[s.host.pc]? = some (.wr r e) → 2 ^ 32 ≤ e.eval s.host →
      (r = .srcLen → step s = .refused (.sourceTooLong (e.eval s.host))) ∧
      (r ≠ .srcLen → step s = .next (writeReg r (Config.wideWrite s.draws)
        { s with events := rest, draws := s.draws + 1, host := { s.host with pc := s.host.pc + 1 } }))) ∧
    (∀ x : HostVar, s.host.program[s.host.pc]? = some (.rd r x) → s.busy = true → r.isResult = true →
      cellsWf 0 s.host.vars = true →
      ∃ t, step s = .next t ∧ t.readData = Config.busyRead s.draws ∧ t.host.get x = (Config.busyRead s.draws).toNat ∧
        (∀ y, y ≠ x → t.host.get y = s.host.get y) ∧ t.host.pc = s.host.pc + 1 ∧
        t = { s with events := rest, readData := t.readData, draws := s.draws + 1,
                     host := { s.host with pc := t.host.pc, vars := t.host.vars } }) ∧
    (∀ x : HostVar, s.host.program[s.host.pc]? = some (.rd r x) → (s.busy = false ∨ r.isResult = false) →
      cellsWf 0 s.host.vars = true →
      ∃ t, step s = .next t ∧ t.readData = regValue s r ∧ t.host.get x = (regValue s r).toNat ∧
        (∀ y, y ≠ x → t.host.get y = s.host.get y) ∧ t.host.pc = s.host.pc + 1 ∧
        t = { s with events := rest, readData := t.readData, host := { s.host with pc := t.host.pc, vars := t.host.vars } })

/-- R236: a SEARCH one of whose sprite offsets does not fit 32 bits is refused. Log 23's choices: so is one with W or H outside
1..255 and one issued while a host program runs, and, read from 93_implementation_defined.md S11, one whose P does not fit. An issued
SEARCH is marked as one (R237). R232: READONE is SEARCH with count 1. R233–R235: an issued SEARCH, with no other input to come (log
1's quiet turn), ends; it has made exactly the requests of R235 in their order, and its result and its reports are those R233 and
R234 give: no sprite without a palette, a decoded record where the whole sprite was read, a placeholder where nothing was, a report
and no record otherwise. (R233 says "report the error" of the palette load; that the report is the code of STATUS.ERR is log 22's.) -/
def Obligations.SearchIsIssuedOnlyInRange : Prop :=
  (∀ (s : State) (o w h p count : Nat) (rest : List Event), s.events = .search o w h p count :: rest →
    (s.host.pc < s.host.program.length → step s = .refused .searchInterleaved) ∧
    (s.host.program.length ≤ s.host.pc →
      ((1 ≤ w ∧ w ≤ 255 ∧ 1 ≤ h ∧ h ≤ 255) ∧ p ≤ 2 ^ 32 - 1 ∧ (count = 0 ∨ o + (count - 1) * 32 * w * h ≤ 2 ^ 32 - 1) →
        ∃ t, step s = .next t ∧ t.host.program = searchProgram o (BitVec.ofNat 8 w) (BitVec.ofNat 8 h) p count ∧
          t.host.pc = 0 ∧ t.host.searching = true ∧ t = { s with events := rest, host := t.host }) ∧
      (¬ ((1 ≤ w ∧ w ≤ 255 ∧ 1 ≤ h ∧ h ≤ 255) ∧ p ≤ 2 ^ 32 - 1 ∧ (count = 0 ∨ o + (count - 1) * 32 * w * h ≤ 2 ^ 32 - 1)) →
        step s = .refused .searchOutOfRange))) ∧
  (∀ (o : Nat) (w h : BitVec 8) (p : Nat), readOneProgram o w h p = searchProgram o w h p 1) ∧
  ∀ (s : State) (o : Nat) (w h : BitVec 8) (p count : Nat),
    s.events = [.search o w.toNat h.toNat p count] → s.host.program.length ≤ s.host.pc → s.busy = false →
    s.fbMaxPixels ≤ 65536 → w ≠ 0#8 → h ≠ 0#8 → p ≤ 2 ^ 32 - 1 →
    (count = 0 ∨ o + (count - 1) * 32 * w.toNat * h.toNat ≤ 2 ^ 32 - 1) →
      ∃ n t, reaches n s t ∧ t.events = [] ∧ t.host.program.length ≤ t.host.pc ∧ t.busy = false ∧
        t.requests = s.requests ++ searchRequests s o w h p count ∧ t.host.result = searchRecords s o w h p count ∧
        t.host.reports = searchReports s o w h p count

/-- R237: an issued SEARCH is protected from after its first action, `WR ADDR`, for as long as it has an access to make: at each of its
FB reads, and not once the record of its last sprite is complete. While it is protected, another host context's access to ADDR, CMD or
a result register is refused; while it is not, that access is made. (Log 15: when the last sprite is not kept the protection ends with
the last access. Every statement's "inside a SEARCH" is this one.) -/
def Obligations.SearchIsNotInterleaved : Prop :=
  (∀ (c : HostCtx) (o : Nat) (w h : BitVec 8) (p count : Nat), c.program = searchProgram o w h p count →
    (c.inSearch = true ↔ c.searching = true ∧ 0 < c.pc ∧ c.accessComes) ∧
    (∀ k x, c.searching = true → c.program[c.pc]? = some (.rd (.fb k) x) → c.inSearch = true) ∧
    (c.program[c.pc]? = some .appendRecord → cellsWf 0 c.vars = true → c.get HostVar.i + 1 = count → c.inSearch = false)) ∧
  ∀ (s : State) (r : Reg) (rest : List Event), s.fbMaxPixels ≤ 65536 → regExists s r = true →
    (∀ (o : Nat) (w h : BitVec 8) (p count width : Nat) (v : Word), s.host.program = searchProgram o w h p count →
      s.host.searching = true → 0 < s.host.pc → s.host.accessComes → (r = .addr ∨ r = .cmd ∨ r.isResult = true) →
      (s.events = .read (BitVec.ofNat 20 r.offset) width :: rest ∨ s.events = .write (BitVec.ofNat 20 r.offset) width v :: rest) →
        step s = .refused .searchInterleaved) ∧
    ((s.host.searching = false ∨ s.host.pc = 0 ∨ ¬ s.host.accessComes) →
      (s.events = .read (BitVec.ofNat 20 r.offset) 32 :: rest → step s = .next (readReg r { s with events := rest })) ∧
      ∀ v, s.events = .write (BitVec.ofNat 20 r.offset) 32 v :: rest → step s = .next (writeReg r v { s with events := rest }))
end

