-- ==== Sys2Proof/Laws/Bits.lean ====
section
/-! SUPPORT. Concatenation and fields of bit vectors as arithmetic, so that `omega` can finish. -/

namespace Sys2Proof

/-- A concatenation as a number. -/
theorem toNat_append_mul {m n : Nat} (x : BitVec m) (y : BitVec n) : (x ++ y).toNat = x.toNat * 2 ^ n + y.toNat := by
  rw [BitVec.toNat_append, ← Nat.shiftLeft_add_eq_or_of_lt y.isLt, Nat.shiftLeft_eq]

/-- A field as a number. -/
theorem toNat_field {m : Nat} (x : BitVec m) (lo n : Nat) : (x.extractLsb' lo n).toNat = x.toNat / 2 ^ lo % 2 ^ n := by
  rw [BitVec.extractLsb'_toNat, Nat.shiftRight_eq_div_pow]

end Sys2Proof
end

