-- ==== Sys2Proof/Laws/Decode.lean ====
section
/-! SUPPORT. The fields of a command word as numbers, and what each answer of the decoder says of its word. -/

namespace Sys2Proof

section
variable (op : BitVec 4) (w h : BitVec 8) (v : Word)

theorem commandWord_toNat : (commandWord op w h).toNat = h.toNat * 65536 + w.toNat * 256 + op.toNat := by
  simp only [commandWord, toNat_append_mul]
  simp
  omega

theorem opField_toNat : (opField v).toNat = v.toNat % 16 := toNat_field v 0 4 |>.trans (by simp)
theorem rsv0Field_toNat : (rsv0Field v).toNat = v.toNat / 16 % 16 := toNat_field v 4 4
theorem wField_toNat : (wField v).toNat = v.toNat / 256 % 256 := toNat_field v 8 8
theorem hField_toNat : (hField v).toNat = v.toNat / 65536 % 256 := toNat_field v 16 8
theorem rsv1Field_toNat : (rsv1Field v).toNat = v.toNat / 16777216 % 256 := toNat_field v 24 8

/-- The fields of a command word are the ones it was made from. -/
@[simp] theorem opField_commandWord : opField (commandWord op w h) = op :=
  BitVec.eq_of_toNat_eq (by rw [opField_toNat, commandWord_toNat]; omega)
@[simp] theorem rsv0Field_commandWord : rsv0Field (commandWord op w h) = 0 :=
  BitVec.eq_of_toNat_eq (by rw [rsv0Field_toNat, commandWord_toNat]; simp; omega)
@[simp] theorem wField_commandWord : wField (commandWord op w h) = w :=
  BitVec.eq_of_toNat_eq (by rw [wField_toNat, commandWord_toNat]; omega)
@[simp] theorem hField_commandWord : hField (commandWord op w h) = h :=
  BitVec.eq_of_toNat_eq (by rw [hField_toNat, commandWord_toNat]; omega)
@[simp] theorem rsv1Field_commandWord : rsv1Field (commandWord op w h) = 0 :=
  BitVec.eq_of_toNat_eq (by rw [rsv1Field_toNat, commandWord_toNat]; simp; omega)

/-- A word with zero reserved fields is the command word of its fields. -/
theorem commandWord_fields (h0 : rsv0Field v = 0) (h1 : rsv1Field v = 0) :
    commandWord (opField v) (wField v) (hField v) = v := by
  refine BitVec.eq_of_toNat_eq ?_
  have h0 := congrArg BitVec.toNat h0
  have h1 := congrArg BitVec.toNat h1
  rw [rsv0Field_toNat] at h0
  rw [rsv1Field_toNat] at h1
  rw [commandWord_toNat, opField_toNat, wField_toNat, hField_toNat]
  simp at h0 h1
  omega

end

theorem decodePlain_ok {i j : Instr} {v : Word} (h : decodePlain i v = .ok j) : j = i ∧ wField v = 0 ∧ hField v = 0 := by
  unfold decodePlain at h
  split at h
  · cases h
  · cases h; simp_all

theorem decodeGrid_ok {mk : BitVec 8 → BitVec 8 → Instr} {j : Instr} {v : Word} (h : decodeGrid mk v = .ok j) :
    j = mk (wField v) (hField v) ∧ wField v ≠ 0 ∧ hField v ≠ 0 := by
  unfold decodeGrid at h
  split at h
  · cases h
  · cases h; simp_all

/-- What an accepted word is: the reserved fields are 0, and OP, W and H are those of one of the six commands. -/
theorem decode_ok {v : Word} {i : Instr} (h : decode v = .ok i) :
    rsv0Field v = 0 ∧ rsv1Field v = 0 ∧
      ((opField v = 0 ∧ i = .nop ∧ wField v = 0 ∧ hField v = 0) ∨
       (opField v = 1 ∧ i = .pload ∧ wField v = 0 ∧ hField v = 0) ∨
       (opField v = 2 ∧ i = .pclr ∧ wField v = 0 ∧ hField v = 0) ∨
       (opField v = 3 ∧ i = .tunpk ∧ wField v = 0 ∧ hField v = 0) ∨
       (opField v = 4 ∧ i = .asm (wField v) (hField v) ∧ wField v ≠ 0 ∧ hField v ≠ 0) ∨
       (opField v = 5 ∧ i = .phold (wField v) (hField v) ∧ wField v ≠ 0 ∧ hField v ≠ 0)) := by
  unfold decode at h
  split at h
  · cases h
  · rename_i hr
    push Not at hr
    refine ⟨hr.1, hr.2, ?_⟩
    repeat' split at h
    · exact .inl ⟨‹_›, decodePlain_ok h⟩
    · exact .inr (.inl ⟨‹_›, decodePlain_ok h⟩)
    · exact .inr (.inr (.inl ⟨‹_›, decodePlain_ok h⟩))
    · exact .inr (.inr (.inr (.inl ⟨‹_›, decodePlain_ok h⟩)))
    · exact .inr (.inr (.inr (.inr (.inl ⟨‹_›, decodeGrid_ok h⟩))))
    · exact .inr (.inr (.inr (.inr (.inr ⟨‹_›, decodeGrid_ok h⟩))))
    · cases h

/-- The decoder answers well-formed commands only (R112, R117). -/
theorem decode_wf {v : Word} {i : Instr} (h : decode v = .ok i) : i.wf = true := by
  obtain ⟨-, -, h | h | h | h | h | h⟩ := decode_ok h <;> obtain ⟨-, rfl, hw, hh⟩ := h <;>
    first | rfl | exact decide_eq_true ⟨hw, hh⟩

/-- A word is accepted or illegal by name. -/
theorem decode_total (v : Word) : (∃ i, decode v = .ok i) ∨ ∃ r, decode v = .error r := by
  cases h : decode v with
  | ok i => exact .inl ⟨i, rfl⟩
  | error r => exact .inr ⟨r, rfl⟩

end Sys2Proof
end

