-- ==== Sys2Proof/Laws/State.lean ====
section
/-! SUPPORT. One lemma per field per update of the state, all true by unfolding the record update. -/

namespace Sys2Proof.Machine

/-! `flagsAccepted` -/

@[simp] theorem flagsAccepted_srcEn (s : State) : (flagsAccepted s).srcEn = s.srcEn := rfl
@[simp] theorem flagsAccepted_busy (s : State) : (flagsAccepted s).busy = true := rfl
@[simp] theorem flagsAccepted_done (s : State) : (flagsAccepted s).done = false := rfl
@[simp] theorem flagsAccepted_ovr (s : State) : (flagsAccepted s).ovr = s.ovr := rfl
@[simp] theorem flagsAccepted_err (s : State) : (flagsAccepted s).err = 0 := rfl
@[simp] theorem flagsAccepted_cmd (s : State) : (flagsAccepted s).cmd = s.cmd := rfl
@[simp] theorem flagsAccepted_addr (s : State) : (flagsAccepted s).addr = s.addr := rfl
@[simp] theorem flagsAccepted_srcLen (s : State) : (flagsAccepted s).srcLen = s.srcLen := rfl
@[simp] theorem flagsAccepted_errInfo (s : State) : (flagsAccepted s).errInfo = 0 := rfl
@[simp] theorem flagsAccepted_palCount (s : State) : (flagsAccepted s).palCount = s.palCount := rfl
@[simp] theorem flagsAccepted_palOff (s : State) : (flagsAccepted s).palOff = s.palOff := rfl
@[simp] theorem flagsAccepted_fbKind (s : State) : (flagsAccepted s).fbKind = s.fbKind := rfl
@[simp] theorem flagsAccepted_fbGridW (s : State) : (flagsAccepted s).fbGridW = s.fbGridW := rfl
@[simp] theorem flagsAccepted_fbGridH (s : State) : (flagsAccepted s).fbGridH = s.fbGridH := rfl
@[simp] theorem flagsAccepted_fbOff (s : State) : (flagsAccepted s).fbOff = s.fbOff := rfl
@[simp] theorem flagsAccepted_fbDimW (s : State) : (flagsAccepted s).fbDimW = s.fbDimW := rfl
@[simp] theorem flagsAccepted_fbDimH (s : State) : (flagsAccepted s).fbDimH = s.fbDimH := rfl
@[simp] theorem flagsAccepted_fbMaxPixels (s : State) : (flagsAccepted s).fbMaxPixels = s.fbMaxPixels := rfl
@[simp] theorem flagsAccepted_pal (s : State) : (flagsAccepted s).pal = s.pal := rfl
@[simp] theorem flagsAccepted_tidx (s : State) : (flagsAccepted s).tidx = s.tidx := rfl
@[simp] theorem flagsAccepted_fb (s : State) : (flagsAccepted s).fb = s.fb := rfl
@[simp] theorem flagsAccepted_latch (s : State) : (flagsAccepted s).latch = s.latch := rfl
@[simp] theorem flagsAccepted_src (s : State) : (flagsAccepted s).src = s.src := rfl
@[simp] theorem flagsAccepted_requests (s : State) : (flagsAccepted s).requests = s.requests := rfl
@[simp] theorem flagsAccepted_readData (s : State) : (flagsAccepted s).readData = s.readData := rfl
@[simp] theorem flagsAccepted_draws (s : State) : (flagsAccepted s).draws = s.draws := rfl
@[simp] theorem flagsAccepted_host (s : State) : (flagsAccepted s).host = s.host := rfl
@[simp] theorem flagsAccepted_events (s : State) : (flagsAccepted s).events = s.events := rfl

/-! `flagsCompleted` -/

@[simp] theorem flagsCompleted_srcEn (e : BitVec 4) (n : Word) (s : State) : (flagsCompleted e n s).srcEn = s.srcEn := rfl
@[simp] theorem flagsCompleted_busy (e : BitVec 4) (n : Word) (s : State) : (flagsCompleted e n s).busy = false := rfl
@[simp] theorem flagsCompleted_done (e : BitVec 4) (n : Word) (s : State) : (flagsCompleted e n s).done = true := rfl
@[simp] theorem flagsCompleted_ovr (e : BitVec 4) (n : Word) (s : State) : (flagsCompleted e n s).ovr = s.ovr := rfl
@[simp] theorem flagsCompleted_err (e : BitVec 4) (n : Word) (s : State) : (flagsCompleted e n s).err = e := rfl
@[simp] theorem flagsCompleted_cmd (e : BitVec 4) (n : Word) (s : State) : (flagsCompleted e n s).cmd = s.cmd := rfl
@[simp] theorem flagsCompleted_addr (e : BitVec 4) (n : Word) (s : State) : (flagsCompleted e n s).addr = s.addr := rfl
@[simp] theorem flagsCompleted_srcLen (e : BitVec 4) (n : Word) (s : State) : (flagsCompleted e n s).srcLen = s.srcLen := rfl
@[simp] theorem flagsCompleted_errInfo (e : BitVec 4) (n : Word) (s : State) : (flagsCompleted e n s).errInfo = n := rfl
@[simp] theorem flagsCompleted_palCount (e : BitVec 4) (n : Word) (s : State) : (flagsCompleted e n s).palCount = s.palCount := rfl
@[simp] theorem flagsCompleted_palOff (e : BitVec 4) (n : Word) (s : State) : (flagsCompleted e n s).palOff = s.palOff := rfl
@[simp] theorem flagsCompleted_fbKind (e : BitVec 4) (n : Word) (s : State) : (flagsCompleted e n s).fbKind = s.fbKind := rfl
@[simp] theorem flagsCompleted_fbGridW (e : BitVec 4) (n : Word) (s : State) : (flagsCompleted e n s).fbGridW = s.fbGridW := rfl
@[simp] theorem flagsCompleted_fbGridH (e : BitVec 4) (n : Word) (s : State) : (flagsCompleted e n s).fbGridH = s.fbGridH := rfl
@[simp] theorem flagsCompleted_fbOff (e : BitVec 4) (n : Word) (s : State) : (flagsCompleted e n s).fbOff = s.fbOff := rfl
@[simp] theorem flagsCompleted_fbDimW (e : BitVec 4) (n : Word) (s : State) : (flagsCompleted e n s).fbDimW = s.fbDimW := rfl
@[simp] theorem flagsCompleted_fbDimH (e : BitVec 4) (n : Word) (s : State) : (flagsCompleted e n s).fbDimH = s.fbDimH := rfl
@[simp] theorem flagsCompleted_fbMaxPixels (e : BitVec 4) (n : Word) (s : State) : (flagsCompleted e n s).fbMaxPixels = s.fbMaxPixels := rfl
@[simp] theorem flagsCompleted_pal (e : BitVec 4) (n : Word) (s : State) : (flagsCompleted e n s).pal = s.pal := rfl
@[simp] theorem flagsCompleted_tidx (e : BitVec 4) (n : Word) (s : State) : (flagsCompleted e n s).tidx = s.tidx := rfl
@[simp] theorem flagsCompleted_fb (e : BitVec 4) (n : Word) (s : State) : (flagsCompleted e n s).fb = s.fb := rfl
@[simp] theorem flagsCompleted_latch (e : BitVec 4) (n : Word) (s : State) : (flagsCompleted e n s).latch = s.latch := rfl
@[simp] theorem flagsCompleted_src (e : BitVec 4) (n : Word) (s : State) : (flagsCompleted e n s).src = s.src := rfl
@[simp] theorem flagsCompleted_requests (e : BitVec 4) (n : Word) (s : State) : (flagsCompleted e n s).requests = s.requests := rfl
@[simp] theorem flagsCompleted_readData (e : BitVec 4) (n : Word) (s : State) : (flagsCompleted e n s).readData = s.readData := rfl
@[simp] theorem flagsCompleted_draws (e : BitVec 4) (n : Word) (s : State) : (flagsCompleted e n s).draws = s.draws := rfl
@[simp] theorem flagsCompleted_host (e : BitVec 4) (n : Word) (s : State) : (flagsCompleted e n s).host = s.host := rfl
@[simp] theorem flagsCompleted_events (e : BitVec 4) (n : Word) (s : State) : (flagsCompleted e n s).events = s.events := rfl

/-! `flagsWritten` -/

@[simp] theorem flagsWritten_srcEn (v : Word) (s : State) : (flagsWritten v s).srcEn = s.srcEn := rfl
@[simp] theorem flagsWritten_busy (v : Word) (s : State) : (flagsWritten v s).busy = s.busy := rfl
@[simp] theorem flagsWritten_done (v : Word) (s : State) : (flagsWritten v s).done = s.done := rfl
@[simp] theorem flagsWritten_ovr (v : Word) (s : State) : (flagsWritten v s).ovr = (s.ovr && !v.getLsbD 2) := rfl
@[simp] theorem flagsWritten_err (v : Word) (s : State) : (flagsWritten v s).err = s.err := rfl
@[simp] theorem flagsWritten_cmd (v : Word) (s : State) : (flagsWritten v s).cmd = s.cmd := rfl
@[simp] theorem flagsWritten_addr (v : Word) (s : State) : (flagsWritten v s).addr = s.addr := rfl
@[simp] theorem flagsWritten_srcLen (v : Word) (s : State) : (flagsWritten v s).srcLen = s.srcLen := rfl
@[simp] theorem flagsWritten_errInfo (v : Word) (s : State) : (flagsWritten v s).errInfo = s.errInfo := rfl
@[simp] theorem flagsWritten_palCount (v : Word) (s : State) : (flagsWritten v s).palCount = s.palCount := rfl
@[simp] theorem flagsWritten_palOff (v : Word) (s : State) : (flagsWritten v s).palOff = s.palOff := rfl
@[simp] theorem flagsWritten_fbKind (v : Word) (s : State) : (flagsWritten v s).fbKind = s.fbKind := rfl
@[simp] theorem flagsWritten_fbGridW (v : Word) (s : State) : (flagsWritten v s).fbGridW = s.fbGridW := rfl
@[simp] theorem flagsWritten_fbGridH (v : Word) (s : State) : (flagsWritten v s).fbGridH = s.fbGridH := rfl
@[simp] theorem flagsWritten_fbOff (v : Word) (s : State) : (flagsWritten v s).fbOff = s.fbOff := rfl
@[simp] theorem flagsWritten_fbDimW (v : Word) (s : State) : (flagsWritten v s).fbDimW = s.fbDimW := rfl
@[simp] theorem flagsWritten_fbDimH (v : Word) (s : State) : (flagsWritten v s).fbDimH = s.fbDimH := rfl
@[simp] theorem flagsWritten_fbMaxPixels (v : Word) (s : State) : (flagsWritten v s).fbMaxPixels = s.fbMaxPixels := rfl
@[simp] theorem flagsWritten_pal (v : Word) (s : State) : (flagsWritten v s).pal = s.pal := rfl
@[simp] theorem flagsWritten_tidx (v : Word) (s : State) : (flagsWritten v s).tidx = s.tidx := rfl
@[simp] theorem flagsWritten_fb (v : Word) (s : State) : (flagsWritten v s).fb = s.fb := rfl
@[simp] theorem flagsWritten_latch (v : Word) (s : State) : (flagsWritten v s).latch = s.latch := rfl
@[simp] theorem flagsWritten_src (v : Word) (s : State) : (flagsWritten v s).src = s.src := rfl
@[simp] theorem flagsWritten_requests (v : Word) (s : State) : (flagsWritten v s).requests = s.requests := rfl
@[simp] theorem flagsWritten_readData (v : Word) (s : State) : (flagsWritten v s).readData = s.readData := rfl
@[simp] theorem flagsWritten_draws (v : Word) (s : State) : (flagsWritten v s).draws = s.draws := rfl
@[simp] theorem flagsWritten_host (v : Word) (s : State) : (flagsWritten v s).host = s.host := rfl
@[simp] theorem flagsWritten_events (v : Word) (s : State) : (flagsWritten v s).events = s.events := rfl

/-! `raiseError` -/

@[simp] theorem raiseError_srcEn (e : ErrKind) (n : Word) (s : State) : (raiseError e n s).srcEn = s.srcEn := rfl
@[simp] theorem raiseError_busy (e : ErrKind) (n : Word) (s : State) : (raiseError e n s).busy = false := rfl
@[simp] theorem raiseError_done (e : ErrKind) (n : Word) (s : State) : (raiseError e n s).done = true := rfl
@[simp] theorem raiseError_ovr (e : ErrKind) (n : Word) (s : State) : (raiseError e n s).ovr = s.ovr := rfl
@[simp] theorem raiseError_err (e : ErrKind) (n : Word) (s : State) : (raiseError e n s).err = e.code := rfl
@[simp] theorem raiseError_cmd (e : ErrKind) (n : Word) (s : State) : (raiseError e n s).cmd = s.cmd := rfl
@[simp] theorem raiseError_addr (e : ErrKind) (n : Word) (s : State) : (raiseError e n s).addr = s.addr := rfl
@[simp] theorem raiseError_srcLen (e : ErrKind) (n : Word) (s : State) : (raiseError e n s).srcLen = s.srcLen := rfl
@[simp] theorem raiseError_errInfo (e : ErrKind) (n : Word) (s : State) : (raiseError e n s).errInfo = n := rfl
@[simp] theorem raiseError_palCount (e : ErrKind) (n : Word) (s : State) : (raiseError e n s).palCount = s.palCount := rfl
@[simp] theorem raiseError_palOff (e : ErrKind) (n : Word) (s : State) : (raiseError e n s).palOff = s.palOff := rfl
@[simp] theorem raiseError_fbKind (e : ErrKind) (n : Word) (s : State) : (raiseError e n s).fbKind = s.fbKind := rfl
@[simp] theorem raiseError_fbGridW (e : ErrKind) (n : Word) (s : State) : (raiseError e n s).fbGridW = s.fbGridW := rfl
@[simp] theorem raiseError_fbGridH (e : ErrKind) (n : Word) (s : State) : (raiseError e n s).fbGridH = s.fbGridH := rfl
@[simp] theorem raiseError_fbOff (e : ErrKind) (n : Word) (s : State) : (raiseError e n s).fbOff = s.fbOff := rfl
@[simp] theorem raiseError_fbDimW (e : ErrKind) (n : Word) (s : State) : (raiseError e n s).fbDimW = s.fbDimW := rfl
@[simp] theorem raiseError_fbDimH (e : ErrKind) (n : Word) (s : State) : (raiseError e n s).fbDimH = s.fbDimH := rfl
@[simp] theorem raiseError_fbMaxPixels (e : ErrKind) (n : Word) (s : State) : (raiseError e n s).fbMaxPixels = s.fbMaxPixels := rfl
@[simp] theorem raiseError_pal (e : ErrKind) (n : Word) (s : State) : (raiseError e n s).pal = s.pal := rfl
@[simp] theorem raiseError_tidx (e : ErrKind) (n : Word) (s : State) : (raiseError e n s).tidx = s.tidx := rfl
@[simp] theorem raiseError_fb (e : ErrKind) (n : Word) (s : State) : (raiseError e n s).fb = s.fb := rfl
@[simp] theorem raiseError_latch (e : ErrKind) (n : Word) (s : State) : (raiseError e n s).latch = s.latch := rfl
@[simp] theorem raiseError_src (e : ErrKind) (n : Word) (s : State) : (raiseError e n s).src = s.src := rfl
@[simp] theorem raiseError_requests (e : ErrKind) (n : Word) (s : State) : (raiseError e n s).requests = s.requests := rfl
@[simp] theorem raiseError_readData (e : ErrKind) (n : Word) (s : State) : (raiseError e n s).readData = s.readData := rfl
@[simp] theorem raiseError_draws (e : ErrKind) (n : Word) (s : State) : (raiseError e n s).draws = s.draws := rfl
@[simp] theorem raiseError_host (e : ErrKind) (n : Word) (s : State) : (raiseError e n s).host = s.host := rfl
@[simp] theorem raiseError_events (e : ErrKind) (n : Word) (s : State) : (raiseError e n s).events = s.events := rfl

/-! `succeed` -/

@[simp] theorem succeed_srcEn (s : State) : (succeed s).srcEn = s.srcEn := rfl
@[simp] theorem succeed_busy (s : State) : (succeed s).busy = false := rfl
@[simp] theorem succeed_done (s : State) : (succeed s).done = true := rfl
@[simp] theorem succeed_ovr (s : State) : (succeed s).ovr = s.ovr := rfl
@[simp] theorem succeed_err (s : State) : (succeed s).err = 0 := rfl
@[simp] theorem succeed_cmd (s : State) : (succeed s).cmd = s.cmd := rfl
@[simp] theorem succeed_addr (s : State) : (succeed s).addr = s.addr := rfl
@[simp] theorem succeed_srcLen (s : State) : (succeed s).srcLen = s.srcLen := rfl
@[simp] theorem succeed_errInfo (s : State) : (succeed s).errInfo = 0 := rfl
@[simp] theorem succeed_palCount (s : State) : (succeed s).palCount = s.palCount := rfl
@[simp] theorem succeed_palOff (s : State) : (succeed s).palOff = s.palOff := rfl
@[simp] theorem succeed_fbKind (s : State) : (succeed s).fbKind = s.fbKind := rfl
@[simp] theorem succeed_fbGridW (s : State) : (succeed s).fbGridW = s.fbGridW := rfl
@[simp] theorem succeed_fbGridH (s : State) : (succeed s).fbGridH = s.fbGridH := rfl
@[simp] theorem succeed_fbOff (s : State) : (succeed s).fbOff = s.fbOff := rfl
@[simp] theorem succeed_fbDimW (s : State) : (succeed s).fbDimW = s.fbDimW := rfl
@[simp] theorem succeed_fbDimH (s : State) : (succeed s).fbDimH = s.fbDimH := rfl
@[simp] theorem succeed_fbMaxPixels (s : State) : (succeed s).fbMaxPixels = s.fbMaxPixels := rfl
@[simp] theorem succeed_pal (s : State) : (succeed s).pal = s.pal := rfl
@[simp] theorem succeed_tidx (s : State) : (succeed s).tidx = s.tidx := rfl
@[simp] theorem succeed_fb (s : State) : (succeed s).fb = s.fb := rfl
@[simp] theorem succeed_latch (s : State) : (succeed s).latch = s.latch := rfl
@[simp] theorem succeed_src (s : State) : (succeed s).src = s.src := rfl
@[simp] theorem succeed_requests (s : State) : (succeed s).requests = s.requests := rfl
@[simp] theorem succeed_readData (s : State) : (succeed s).readData = s.readData := rfl
@[simp] theorem succeed_draws (s : State) : (succeed s).draws = s.draws := rfl
@[simp] theorem succeed_host (s : State) : (succeed s).host = s.host := rfl
@[simp] theorem succeed_events (s : State) : (succeed s).events = s.events := rfl

/-! `accept` -/

@[simp] theorem accept_srcEn (v : Word) (s : State) : (accept v s).srcEn = s.srcEn := rfl
@[simp] theorem accept_busy (v : Word) (s : State) : (accept v s).busy = true := rfl
@[simp] theorem accept_done (v : Word) (s : State) : (accept v s).done = false := rfl
@[simp] theorem accept_ovr (v : Word) (s : State) : (accept v s).ovr = s.ovr := rfl
@[simp] theorem accept_err (v : Word) (s : State) : (accept v s).err = 0 := rfl
@[simp] theorem accept_cmd (v : Word) (s : State) : (accept v s).cmd = v := rfl
@[simp] theorem accept_addr (v : Word) (s : State) : (accept v s).addr = s.addr := rfl
@[simp] theorem accept_srcLen (v : Word) (s : State) : (accept v s).srcLen = s.srcLen := rfl
@[simp] theorem accept_errInfo (v : Word) (s : State) : (accept v s).errInfo = 0 := rfl
@[simp] theorem accept_palCount (v : Word) (s : State) : (accept v s).palCount = s.palCount := rfl
@[simp] theorem accept_palOff (v : Word) (s : State) : (accept v s).palOff = s.palOff := rfl
@[simp] theorem accept_fbKind (v : Word) (s : State) : (accept v s).fbKind = s.fbKind := rfl
@[simp] theorem accept_fbGridW (v : Word) (s : State) : (accept v s).fbGridW = s.fbGridW := rfl
@[simp] theorem accept_fbGridH (v : Word) (s : State) : (accept v s).fbGridH = s.fbGridH := rfl
@[simp] theorem accept_fbOff (v : Word) (s : State) : (accept v s).fbOff = s.fbOff := rfl
@[simp] theorem accept_fbDimW (v : Word) (s : State) : (accept v s).fbDimW = s.fbDimW := rfl
@[simp] theorem accept_fbDimH (v : Word) (s : State) : (accept v s).fbDimH = s.fbDimH := rfl
@[simp] theorem accept_fbMaxPixels (v : Word) (s : State) : (accept v s).fbMaxPixels = s.fbMaxPixels := rfl
@[simp] theorem accept_pal (v : Word) (s : State) : (accept v s).pal = s.pal := rfl
@[simp] theorem accept_tidx (v : Word) (s : State) : (accept v s).tidx = s.tidx := rfl
@[simp] theorem accept_fb (v : Word) (s : State) : (accept v s).fb = s.fb := rfl
@[simp] theorem accept_latch (v : Word) (s : State) : (accept v s).latch = ⟨v, s.addr, s.srcLen, s.srcEn⟩ := rfl
@[simp] theorem accept_src (v : Word) (s : State) : (accept v s).src = s.src := rfl
@[simp] theorem accept_requests (v : Word) (s : State) : (accept v s).requests = s.requests := rfl
@[simp] theorem accept_readData (v : Word) (s : State) : (accept v s).readData = s.readData := rfl
@[simp] theorem accept_draws (v : Word) (s : State) : (accept v s).draws = s.draws := rfl
@[simp] theorem accept_host (v : Word) (s : State) : (accept v s).host = s.host := rfl
@[simp] theorem accept_events (v : Word) (s : State) : (accept v s).events = s.events := rfl

/-! `request` -/

@[simp] theorem request_srcEn (n : Nat) (s : State) : (request n s).srcEn = s.srcEn := rfl
@[simp] theorem request_busy (n : Nat) (s : State) : (request n s).busy = s.busy := rfl
@[simp] theorem request_done (n : Nat) (s : State) : (request n s).done = s.done := rfl
@[simp] theorem request_ovr (n : Nat) (s : State) : (request n s).ovr = s.ovr := rfl
@[simp] theorem request_err (n : Nat) (s : State) : (request n s).err = s.err := rfl
@[simp] theorem request_cmd (n : Nat) (s : State) : (request n s).cmd = s.cmd := rfl
@[simp] theorem request_addr (n : Nat) (s : State) : (request n s).addr = s.addr := rfl
@[simp] theorem request_srcLen (n : Nat) (s : State) : (request n s).srcLen = s.srcLen := rfl
@[simp] theorem request_errInfo (n : Nat) (s : State) : (request n s).errInfo = s.errInfo := rfl
@[simp] theorem request_palCount (n : Nat) (s : State) : (request n s).palCount = s.palCount := rfl
@[simp] theorem request_palOff (n : Nat) (s : State) : (request n s).palOff = s.palOff := rfl
@[simp] theorem request_fbKind (n : Nat) (s : State) : (request n s).fbKind = s.fbKind := rfl
@[simp] theorem request_fbGridW (n : Nat) (s : State) : (request n s).fbGridW = s.fbGridW := rfl
@[simp] theorem request_fbGridH (n : Nat) (s : State) : (request n s).fbGridH = s.fbGridH := rfl
@[simp] theorem request_fbOff (n : Nat) (s : State) : (request n s).fbOff = s.fbOff := rfl
@[simp] theorem request_fbDimW (n : Nat) (s : State) : (request n s).fbDimW = s.fbDimW := rfl
@[simp] theorem request_fbDimH (n : Nat) (s : State) : (request n s).fbDimH = s.fbDimH := rfl
@[simp] theorem request_fbMaxPixels (n : Nat) (s : State) : (request n s).fbMaxPixels = s.fbMaxPixels := rfl
@[simp] theorem request_pal (n : Nat) (s : State) : (request n s).pal = s.pal := rfl
@[simp] theorem request_tidx (n : Nat) (s : State) : (request n s).tidx = s.tidx := rfl
@[simp] theorem request_fb (n : Nat) (s : State) : (request n s).fb = s.fb := rfl
@[simp] theorem request_latch (n : Nat) (s : State) : (request n s).latch = s.latch := rfl
@[simp] theorem request_src (n : Nat) (s : State) : (request n s).src = s.src := rfl
@[simp] theorem request_requests (n : Nat) (s : State) : (request n s).requests = s.requests ++ [⟨s.latch.addr, n⟩] := rfl
@[simp] theorem request_readData (n : Nat) (s : State) : (request n s).readData = s.readData := rfl
@[simp] theorem request_draws (n : Nat) (s : State) : (request n s).draws = s.draws := rfl
@[simp] theorem request_host (n : Nat) (s : State) : (request n s).host = s.host := rfl
@[simp] theorem request_events (n : Nat) (s : State) : (request n s).events = s.events := rfl

/-! `writeImage` -/

@[simp] theorem writeImage_srcEn (d : BitVec 2) (w h : BitVec 8) (px : List Rgb) (s : State) : (writeImage d w h px s).srcEn = s.srcEn := rfl
@[simp] theorem writeImage_busy (d : BitVec 2) (w h : BitVec 8) (px : List Rgb) (s : State) : (writeImage d w h px s).busy = s.busy := rfl
@[simp] theorem writeImage_done (d : BitVec 2) (w h : BitVec 8) (px : List Rgb) (s : State) : (writeImage d w h px s).done = s.done := rfl
@[simp] theorem writeImage_ovr (d : BitVec 2) (w h : BitVec 8) (px : List Rgb) (s : State) : (writeImage d w h px s).ovr = s.ovr := rfl
@[simp] theorem writeImage_err (d : BitVec 2) (w h : BitVec 8) (px : List Rgb) (s : State) : (writeImage d w h px s).err = s.err := rfl
@[simp] theorem writeImage_cmd (d : BitVec 2) (w h : BitVec 8) (px : List Rgb) (s : State) : (writeImage d w h px s).cmd = s.cmd := rfl
@[simp] theorem writeImage_addr (d : BitVec 2) (w h : BitVec 8) (px : List Rgb) (s : State) : (writeImage d w h px s).addr = s.addr := rfl
@[simp] theorem writeImage_srcLen (d : BitVec 2) (w h : BitVec 8) (px : List Rgb) (s : State) : (writeImage d w h px s).srcLen = s.srcLen := rfl
@[simp] theorem writeImage_errInfo (d : BitVec 2) (w h : BitVec 8) (px : List Rgb) (s : State) : (writeImage d w h px s).errInfo = s.errInfo := rfl
@[simp] theorem writeImage_palCount (d : BitVec 2) (w h : BitVec 8) (px : List Rgb) (s : State) : (writeImage d w h px s).palCount = s.palCount := rfl
@[simp] theorem writeImage_palOff (d : BitVec 2) (w h : BitVec 8) (px : List Rgb) (s : State) : (writeImage d w h px s).palOff = s.palOff := rfl
@[simp] theorem writeImage_fbKind (d : BitVec 2) (w h : BitVec 8) (px : List Rgb) (s : State) : (writeImage d w h px s).fbKind = d := rfl
@[simp] theorem writeImage_fbGridW (d : BitVec 2) (w h : BitVec 8) (px : List Rgb) (s : State) : (writeImage d w h px s).fbGridW = w := rfl
@[simp] theorem writeImage_fbGridH (d : BitVec 2) (w h : BitVec 8) (px : List Rgb) (s : State) : (writeImage d w h px s).fbGridH = h := rfl
@[simp] theorem writeImage_fbOff (d : BitVec 2) (w h : BitVec 8) (px : List Rgb) (s : State) : (writeImage d w h px s).fbOff = s.latch.addr := rfl
@[simp] theorem writeImage_fbDimW (d : BitVec 2) (w h : BitVec 8) (px : List Rgb) (s : State) : (writeImage d w h px s).fbDimW = BitVec.ofNat 16 (sidePixels w) := rfl
@[simp] theorem writeImage_fbDimH (d : BitVec 2) (w h : BitVec 8) (px : List Rgb) (s : State) : (writeImage d w h px s).fbDimH = BitVec.ofNat 16 (sidePixels h) := rfl
@[simp] theorem writeImage_fbMaxPixels (d : BitVec 2) (w h : BitVec 8) (px : List Rgb) (s : State) : (writeImage d w h px s).fbMaxPixels = s.fbMaxPixels := rfl
@[simp] theorem writeImage_pal (d : BitVec 2) (w h : BitVec 8) (px : List Rgb) (s : State) : (writeImage d w h px s).pal = s.pal := rfl
@[simp] theorem writeImage_tidx (d : BitVec 2) (w h : BitVec 8) (px : List Rgb) (s : State) : (writeImage d w h px s).tidx = s.tidx := rfl
@[simp] theorem writeImage_fb (d : BitVec 2) (w h : BitVec 8) (px : List Rgb) (s : State) : (writeImage d w h px s).fb = px ++ s.fb.drop px.length := rfl
@[simp] theorem writeImage_latch (d : BitVec 2) (w h : BitVec 8) (px : List Rgb) (s : State) : (writeImage d w h px s).latch = s.latch := rfl
@[simp] theorem writeImage_src (d : BitVec 2) (w h : BitVec 8) (px : List Rgb) (s : State) : (writeImage d w h px s).src = s.src := rfl
@[simp] theorem writeImage_requests (d : BitVec 2) (w h : BitVec 8) (px : List Rgb) (s : State) : (writeImage d w h px s).requests = s.requests := rfl
@[simp] theorem writeImage_readData (d : BitVec 2) (w h : BitVec 8) (px : List Rgb) (s : State) : (writeImage d w h px s).readData = s.readData := rfl
@[simp] theorem writeImage_draws (d : BitVec 2) (w h : BitVec 8) (px : List Rgb) (s : State) : (writeImage d w h px s).draws = s.draws := rfl
@[simp] theorem writeImage_host (d : BitVec 2) (w h : BitVec 8) (px : List Rgb) (s : State) : (writeImage d w h px s).host = s.host := rfl
@[simp] theorem writeImage_events (d : BitVec 2) (w h : BitVec 8) (px : List Rgb) (s : State) : (writeImage d w h px s).events = s.events := rfl

/-! `loadPalette` -/

@[simp] theorem loadPalette_srcEn (s : State) : (loadPalette s).srcEn = s.srcEn := rfl
@[simp] theorem loadPalette_busy (s : State) : (loadPalette s).busy = s.busy := rfl
@[simp] theorem loadPalette_done (s : State) : (loadPalette s).done = s.done := rfl
@[simp] theorem loadPalette_ovr (s : State) : (loadPalette s).ovr = s.ovr := rfl
@[simp] theorem loadPalette_err (s : State) : (loadPalette s).err = s.err := rfl
@[simp] theorem loadPalette_cmd (s : State) : (loadPalette s).cmd = s.cmd := rfl
@[simp] theorem loadPalette_addr (s : State) : (loadPalette s).addr = s.addr := rfl
@[simp] theorem loadPalette_srcLen (s : State) : (loadPalette s).srcLen = s.srcLen := rfl
@[simp] theorem loadPalette_errInfo (s : State) : (loadPalette s).errInfo = s.errInfo := rfl
@[simp] theorem loadPalette_palCount (s : State) : (loadPalette s).palCount = 16 := rfl
@[simp] theorem loadPalette_palOff (s : State) : (loadPalette s).palOff = s.latch.addr := rfl
@[simp] theorem loadPalette_fbKind (s : State) : (loadPalette s).fbKind = s.fbKind := rfl
@[simp] theorem loadPalette_fbGridW (s : State) : (loadPalette s).fbGridW = s.fbGridW := rfl
@[simp] theorem loadPalette_fbGridH (s : State) : (loadPalette s).fbGridH = s.fbGridH := rfl
@[simp] theorem loadPalette_fbOff (s : State) : (loadPalette s).fbOff = s.fbOff := rfl
@[simp] theorem loadPalette_fbDimW (s : State) : (loadPalette s).fbDimW = s.fbDimW := rfl
@[simp] theorem loadPalette_fbDimH (s : State) : (loadPalette s).fbDimH = s.fbDimH := rfl
@[simp] theorem loadPalette_fbMaxPixels (s : State) : (loadPalette s).fbMaxPixels = s.fbMaxPixels := rfl
@[simp] theorem loadPalette_pal (s : State) : (loadPalette s).pal = (Vector.ofFn fun j => paletteEntry s j.val) := rfl
@[simp] theorem loadPalette_tidx (s : State) : (loadPalette s).tidx = s.tidx := rfl
@[simp] theorem loadPalette_fb (s : State) : (loadPalette s).fb = s.fb := rfl
@[simp] theorem loadPalette_latch (s : State) : (loadPalette s).latch = s.latch := rfl
@[simp] theorem loadPalette_src (s : State) : (loadPalette s).src = s.src := rfl
@[simp] theorem loadPalette_requests (s : State) : (loadPalette s).requests = s.requests := rfl
@[simp] theorem loadPalette_readData (s : State) : (loadPalette s).readData = s.readData := rfl
@[simp] theorem loadPalette_draws (s : State) : (loadPalette s).draws = s.draws := rfl
@[simp] theorem loadPalette_host (s : State) : (loadPalette s).host = s.host := rfl
@[simp] theorem loadPalette_events (s : State) : (loadPalette s).events = s.events := rfl

/-! `loadTile` -/

@[simp] theorem loadTile_srcEn (s : State) : (loadTile s).srcEn = s.srcEn := rfl
@[simp] theorem loadTile_busy (s : State) : (loadTile s).busy = s.busy := rfl
@[simp] theorem loadTile_done (s : State) : (loadTile s).done = s.done := rfl
@[simp] theorem loadTile_ovr (s : State) : (loadTile s).ovr = s.ovr := rfl
@[simp] theorem loadTile_err (s : State) : (loadTile s).err = s.err := rfl
@[simp] theorem loadTile_cmd (s : State) : (loadTile s).cmd = s.cmd := rfl
@[simp] theorem loadTile_addr (s : State) : (loadTile s).addr = s.addr := rfl
@[simp] theorem loadTile_srcLen (s : State) : (loadTile s).srcLen = s.srcLen := rfl
@[simp] theorem loadTile_errInfo (s : State) : (loadTile s).errInfo = s.errInfo := rfl
@[simp] theorem loadTile_palCount (s : State) : (loadTile s).palCount = s.palCount := rfl
@[simp] theorem loadTile_palOff (s : State) : (loadTile s).palOff = s.palOff := rfl
@[simp] theorem loadTile_fbKind (s : State) : (loadTile s).fbKind = s.fbKind := rfl
@[simp] theorem loadTile_fbGridW (s : State) : (loadTile s).fbGridW = s.fbGridW := rfl
@[simp] theorem loadTile_fbGridH (s : State) : (loadTile s).fbGridH = s.fbGridH := rfl
@[simp] theorem loadTile_fbOff (s : State) : (loadTile s).fbOff = s.fbOff := rfl
@[simp] theorem loadTile_fbDimW (s : State) : (loadTile s).fbDimW = s.fbDimW := rfl
@[simp] theorem loadTile_fbDimH (s : State) : (loadTile s).fbDimH = s.fbDimH := rfl
@[simp] theorem loadTile_fbMaxPixels (s : State) : (loadTile s).fbMaxPixels = s.fbMaxPixels := rfl
@[simp] theorem loadTile_pal (s : State) : (loadTile s).pal = s.pal := rfl
@[simp] theorem loadTile_tidx (s : State) : (loadTile s).tidx = unpack (latchByte s) := rfl
@[simp] theorem loadTile_fb (s : State) : (loadTile s).fb = s.fb := rfl
@[simp] theorem loadTile_latch (s : State) : (loadTile s).latch = s.latch := rfl
@[simp] theorem loadTile_src (s : State) : (loadTile s).src = s.src := rfl
@[simp] theorem loadTile_requests (s : State) : (loadTile s).requests = s.requests := rfl
@[simp] theorem loadTile_readData (s : State) : (loadTile s).readData = s.readData := rfl
@[simp] theorem loadTile_draws (s : State) : (loadTile s).draws = s.draws := rfl
@[simp] theorem loadTile_host (s : State) : (loadTile s).host = s.host := rfl
@[simp] theorem loadTile_events (s : State) : (loadTile s).events = s.events := rfl

/-! `withHost` -/

@[simp] theorem withHost_srcEn (s : State) (c : HostCtx) : (s.withHost c).srcEn = s.srcEn := rfl
@[simp] theorem withHost_busy (s : State) (c : HostCtx) : (s.withHost c).busy = s.busy := rfl
@[simp] theorem withHost_done (s : State) (c : HostCtx) : (s.withHost c).done = s.done := rfl
@[simp] theorem withHost_ovr (s : State) (c : HostCtx) : (s.withHost c).ovr = s.ovr := rfl
@[simp] theorem withHost_err (s : State) (c : HostCtx) : (s.withHost c).err = s.err := rfl
@[simp] theorem withHost_cmd (s : State) (c : HostCtx) : (s.withHost c).cmd = s.cmd := rfl
@[simp] theorem withHost_addr (s : State) (c : HostCtx) : (s.withHost c).addr = s.addr := rfl
@[simp] theorem withHost_srcLen (s : State) (c : HostCtx) : (s.withHost c).srcLen = s.srcLen := rfl
@[simp] theorem withHost_errInfo (s : State) (c : HostCtx) : (s.withHost c).errInfo = s.errInfo := rfl
@[simp] theorem withHost_palCount (s : State) (c : HostCtx) : (s.withHost c).palCount = s.palCount := rfl
@[simp] theorem withHost_palOff (s : State) (c : HostCtx) : (s.withHost c).palOff = s.palOff := rfl
@[simp] theorem withHost_fbKind (s : State) (c : HostCtx) : (s.withHost c).fbKind = s.fbKind := rfl
@[simp] theorem withHost_fbGridW (s : State) (c : HostCtx) : (s.withHost c).fbGridW = s.fbGridW := rfl
@[simp] theorem withHost_fbGridH (s : State) (c : HostCtx) : (s.withHost c).fbGridH = s.fbGridH := rfl
@[simp] theorem withHost_fbOff (s : State) (c : HostCtx) : (s.withHost c).fbOff = s.fbOff := rfl
@[simp] theorem withHost_fbDimW (s : State) (c : HostCtx) : (s.withHost c).fbDimW = s.fbDimW := rfl
@[simp] theorem withHost_fbDimH (s : State) (c : HostCtx) : (s.withHost c).fbDimH = s.fbDimH := rfl
@[simp] theorem withHost_fbMaxPixels (s : State) (c : HostCtx) : (s.withHost c).fbMaxPixels = s.fbMaxPixels := rfl
@[simp] theorem withHost_pal (s : State) (c : HostCtx) : (s.withHost c).pal = s.pal := rfl
@[simp] theorem withHost_tidx (s : State) (c : HostCtx) : (s.withHost c).tidx = s.tidx := rfl
@[simp] theorem withHost_fb (s : State) (c : HostCtx) : (s.withHost c).fb = s.fb := rfl
@[simp] theorem withHost_latch (s : State) (c : HostCtx) : (s.withHost c).latch = s.latch := rfl
@[simp] theorem withHost_src (s : State) (c : HostCtx) : (s.withHost c).src = s.src := rfl
@[simp] theorem withHost_requests (s : State) (c : HostCtx) : (s.withHost c).requests = s.requests := rfl
@[simp] theorem withHost_readData (s : State) (c : HostCtx) : (s.withHost c).readData = s.readData := rfl
@[simp] theorem withHost_draws (s : State) (c : HostCtx) : (s.withHost c).draws = s.draws := rfl
@[simp] theorem withHost_host (s : State) (c : HostCtx) : (s.withHost c).host = c := rfl
@[simp] theorem withHost_events (s : State) (c : HostCtx) : (s.withHost c).events = s.events := rfl

/-! `applyReset` -/

@[simp] theorem applyReset_srcEn (s : State) : (applyReset s).srcEn = State.reset.srcEn := rfl
@[simp] theorem applyReset_busy (s : State) : (applyReset s).busy = State.reset.busy := rfl
@[simp] theorem applyReset_done (s : State) : (applyReset s).done = State.reset.done := rfl
@[simp] theorem applyReset_ovr (s : State) : (applyReset s).ovr = State.reset.ovr := rfl
@[simp] theorem applyReset_err (s : State) : (applyReset s).err = State.reset.err := rfl
@[simp] theorem applyReset_cmd (s : State) : (applyReset s).cmd = State.reset.cmd := rfl
@[simp] theorem applyReset_addr (s : State) : (applyReset s).addr = State.reset.addr := rfl
@[simp] theorem applyReset_srcLen (s : State) : (applyReset s).srcLen = State.reset.srcLen := rfl
@[simp] theorem applyReset_errInfo (s : State) : (applyReset s).errInfo = State.reset.errInfo := rfl
@[simp] theorem applyReset_palCount (s : State) : (applyReset s).palCount = State.reset.palCount := rfl
@[simp] theorem applyReset_palOff (s : State) : (applyReset s).palOff = State.reset.palOff := rfl
@[simp] theorem applyReset_fbKind (s : State) : (applyReset s).fbKind = State.reset.fbKind := rfl
@[simp] theorem applyReset_fbGridW (s : State) : (applyReset s).fbGridW = State.reset.fbGridW := rfl
@[simp] theorem applyReset_fbGridH (s : State) : (applyReset s).fbGridH = State.reset.fbGridH := rfl
@[simp] theorem applyReset_fbOff (s : State) : (applyReset s).fbOff = State.reset.fbOff := rfl
@[simp] theorem applyReset_fbDimW (s : State) : (applyReset s).fbDimW = State.reset.fbDimW := rfl
@[simp] theorem applyReset_fbDimH (s : State) : (applyReset s).fbDimH = State.reset.fbDimH := rfl
@[simp] theorem applyReset_fbMaxPixels (s : State) : (applyReset s).fbMaxPixels = s.fbMaxPixels := rfl
@[simp] theorem applyReset_pal (s : State) : (applyReset s).pal = State.reset.pal := rfl
@[simp] theorem applyReset_tidx (s : State) : (applyReset s).tidx = State.reset.tidx := rfl
@[simp] theorem applyReset_fb (s : State) : (applyReset s).fb = State.reset.fb := rfl
@[simp] theorem applyReset_latch (s : State) : (applyReset s).latch = State.reset.latch := rfl
@[simp] theorem applyReset_src (s : State) : (applyReset s).src = s.src := rfl
@[simp] theorem applyReset_requests (s : State) : (applyReset s).requests = s.requests := rfl
@[simp] theorem applyReset_readData (s : State) : (applyReset s).readData = s.readData := rfl
@[simp] theorem applyReset_draws (s : State) : (applyReset s).draws = s.draws := rfl
@[simp] theorem applyReset_host (s : State) : (applyReset s).host = s.host := rfl
@[simp] theorem applyReset_events (s : State) : (applyReset s).events = s.events := rfl

/-! `State.reset`: the values of spec/70_reset_and_hazards.md R281 and the log's. -/

@[simp] theorem reset_srcEn : State.reset.srcEn = false := rfl
@[simp] theorem reset_busy : State.reset.busy = false := rfl
@[simp] theorem reset_done : State.reset.done = false := rfl
@[simp] theorem reset_ovr : State.reset.ovr = false := rfl
@[simp] theorem reset_err : State.reset.err = 0 := rfl
@[simp] theorem reset_cmd : State.reset.cmd = 0 := rfl
@[simp] theorem reset_addr : State.reset.addr = 0 := rfl
@[simp] theorem reset_srcLen : State.reset.srcLen = 0 := rfl
@[simp] theorem reset_errInfo : State.reset.errInfo = 0 := rfl
@[simp] theorem reset_palCount : State.reset.palCount = 0 := rfl
@[simp] theorem reset_palOff : State.reset.palOff = 0 := rfl
@[simp] theorem reset_fbKind : State.reset.fbKind = 0 := rfl
@[simp] theorem reset_fbGridW : State.reset.fbGridW = 0 := rfl
@[simp] theorem reset_fbGridH : State.reset.fbGridH = 0 := rfl
@[simp] theorem reset_fbOff : State.reset.fbOff = 0 := rfl
@[simp] theorem reset_fbDimW : State.reset.fbDimW = 0 := rfl
@[simp] theorem reset_fbDimH : State.reset.fbDimH = 0 := rfl
@[simp] theorem reset_fbMaxPixels : State.reset.fbMaxPixels = 65536 := rfl
@[simp] theorem reset_pal : State.reset.pal = Vector.replicate 16 Rgb.black := rfl
@[simp] theorem reset_tidx : State.reset.tidx = Vector.replicate 8 (Vector.replicate 8 0) := rfl
@[simp] theorem reset_fb : State.reset.fb = [] := rfl
@[simp] theorem reset_latch : State.reset.latch = Latch.reset := rfl
@[simp] theorem reset_src : State.reset.src = [] := rfl
@[simp] theorem reset_requests : State.reset.requests = [] := rfl
@[simp] theorem reset_readData : State.reset.readData = 0 := rfl
@[simp] theorem reset_draws : State.reset.draws = 0 := rfl
@[simp] theorem reset_host : State.reset.host = HostCtx.idle := rfl
@[simp] theorem reset_events : State.reset.events = [] := rfl

end Sys2Proof.Machine
end

