-- ==== Sys2Proof/Laws/Ops.lean ====
section
/-! SUPPORT. What each shared operation can do, once: Avail, the source and capacity checks, the image write. -/

namespace Sys2Proof.Machine

/-! ## The constants (spec/00_scope.md R10) -/

@[simp] theorem tileBytes_eq : Config.tileBytes = 32 := rfl
@[simp] theorem paletteBytes_eq : Config.paletteBytes = 32 := rfl

/-! ## Avail (spec/00_scope.md R17) -/

theorem avail_le (len a n : Nat) : avail len a n ≤ n := by unfold avail; split <;> omega

theorem avail_lt_iff {len a n : Nat} (hn : n ≠ 0) : avail len a n < n ↔ len < a + n := by
  unfold avail; split <;> omega

/-- A short request gets what is left of the source. -/
theorem avail_short {len a n : Nat} (h : len < a + n) : avail len a n = len - a := by
  unfold avail; split <;> omega

/-- Every byte of an answered request lies inside the source (20_memory.md R84). -/
theorem lt_of_lt_avail {len a n k : Nat} (h : k < avail len a n) : a + k < len := by
  unfold avail at h; split at h <;> omega

/-! ## The source and capacity checks -/

/-- The three ends of a command that reads the source. -/
theorem withSource_cases (need : Nat) (short : ErrKind) (use : State → State) (s : State) :
    (s.latch.srcEn = false ∧ withSource need short use s = raiseError .sourceUnavailable 0 s) ∨
    (s.latch.srcEn = true ∧ latchAvail s need < need ∧
      withSource need short use s = raiseError short (BitVec.ofNat 32 (latchAvail s need)) (request need s)) ∨
    (s.latch.srcEn = true ∧ need ≤ latchAvail s need ∧ withSource need short use s = succeed (use (request need s))) := by
  unfold withSource
  split
  · exact .inl ⟨‹_›, rfl⟩
  · have : s.latch.srcEn = true := by simpa using ‹¬ s.latch.srcEn = false›
    split
    · exact .inr (.inl ⟨this, ‹_›, rfl⟩)
    · exact .inr (.inr ⟨this, by omega, rfl⟩)

theorem withSource_unavailable {need : Nat} {short : ErrKind} {use : State → State} {s : State} (h : s.latch.srcEn = false) :
    withSource need short use s = raiseError .sourceUnavailable 0 s := if_pos h

theorem withSource_short {need : Nat} {short : ErrKind} {use : State → State} {s : State} (h : s.latch.srcEn = true)
    (hn : need ≠ 0) (hs : s.latch.srcLen.toNat < s.latch.addr.toNat + need) :
    withSource need short use s =
      raiseError short (BitVec.ofNat 32 (s.latch.srcLen.toNat - s.latch.addr.toNat)) (request need s) := by
  have ha : latchAvail s need < need := (avail_lt_iff hn).2 hs
  have he : latchAvail s need = s.latch.srcLen.toNat - s.latch.addr.toNat := avail_short hs
  rw [withSource, if_neg (by simp [h]), if_pos ha, he]

theorem withSource_full {need : Nat} {short : ErrKind} {use : State → State} {s : State} (h : s.latch.srcEn = true)
    (hs : s.latch.addr.toNat + need ≤ s.latch.srcLen.toNat) :
    withSource need short use s = succeed (use (request need s)) := by
  rw [withSource, if_neg (by simp [h]), if_neg]
  rcases Nat.eq_zero_or_pos need with rfl | hn
  · omega
  · rw [latchAvail, avail_lt_iff (by omega)]; omega

theorem withCapacity_fits {w h : BitVec 8} {go : State → State} {s : State} (hc : gridPixels w h ≤ s.fbMaxPixels) :
    withCapacity w h go s = go s := if_neg (by omega)

theorem withCapacity_tooLarge {w h : BitVec 8} {go : State → State} {s : State} (hc : s.fbMaxPixels < gridPixels w h) :
    withCapacity w h go s = raiseError .frameTooLarge (BitVec.ofNat 32 (gridPixels w h)) s := if_pos hc

/-! ## The error codes -/

theorem ErrKind.code_ne_zero (e : ErrKind) : e.code ≠ 0#4 := by cases e <;> decide
theorem ErrKind.code_legal (e : ErrKind) : e.code.toNat ≤ 6 := by cases e <;> decide

theorem raiseError_ne_zero (e : ErrKind) (n : Word) (s : State) : (raiseError e n s).err ≠ 0#4 := e.code_ne_zero

/-! ## Geometry (spec/30_encoding.md R112) -/

theorem gridPixels_lt (w h : BitVec 8) : gridPixels w h < 2 ^ 32 := by
  have : w.toNat * h.toNat ≤ 255 * 255 := Nat.mul_le_mul (by omega) (by omega)
  simp only [gridPixels, Nat.mul_assoc]
  omega

theorem sidePixels_ofNat (w : BitVec 8) : (BitVec.ofNat 16 (sidePixels w)).toNat = sidePixels w := by
  have := w.isLt
  simp only [sidePixels, BitVec.toNat_ofNat]
  omega

theorem gridPixels_eq_sides (w h : BitVec 8) : sidePixels w * sidePixels h = gridPixels w h := by
  simp only [sidePixels, gridPixels]; ring

/-! ## The image write -/

section
variable (kind : BitVec 2) (w h : BitVec 8) (px : List Rgb) (s : State)

/-- A frame-buffer entry after an image write: the image's pixel, or what the entry held. -/
theorem fbEntry_writeImage (k : Nat) :
    fbEntry (writeImage kind w h px s) k = if hk : k < px.length then px[k] else fbEntry s k := by
  unfold fbEntry
  simp only [writeImage_fb, List.getD_eq_getElem?_getD]
  split
  · rw [List.getElem?_append_left ‹_›]; simp [*]
  · rw [List.getElem?_append_right (by omega), List.getElem?_drop]
    congr 2; omega

@[simp] theorem imagePixels_writeImage : imagePixels (writeImage kind w h px s) = gridPixels w h := by
  simp only [imagePixels, writeImage_fbDimW, writeImage_fbDimH, sidePixels_ofNat, gridPixels_eq_sides]

theorem length_writeImage_fb : (writeImage kind w h px s).fb.length = max px.length s.fb.length := by
  simp only [writeImage_fb, List.length_append, List.length_drop]; omega

end

@[simp] theorem fbEntry_flagsCompleted (e : BitVec 4) (n : Word) (s : State) (k : Nat) :
    fbEntry (flagsCompleted e n s) k = fbEntry s k := rfl
@[simp] theorem fbEntry_succeed (s : State) (k : Nat) : fbEntry (succeed s) k = fbEntry s k := rfl
@[simp] theorem fbEntry_request (n : Nat) (s : State) (k : Nat) : fbEntry (request n s) k = fbEntry s k := rfl
@[simp] theorem imagePixels_succeed (s : State) : imagePixels (succeed s) = imagePixels s := rfl
@[simp] theorem imagePixels_request (n : Nat) (s : State) : imagePixels (request n s) = imagePixels s := rfl

/-! ## The images -/

@[simp] theorem length_rasterIndices (t : Nat → Byte) (a w h : Nat) : (rasterIndices t a w h).length = 64 * w * h := by
  simp [rasterIndices]

@[simp] theorem length_decodedImage (s : State) (w h : BitVec 8) : (decodedImage s w h).length = gridPixels w h := by
  simp [decodedImage, gridPixels]

@[simp] theorem length_placeholderImage (w h : BitVec 8) : (placeholderImage w h).length = gridPixels w h := by
  simp [placeholderImage]

/-- Pixel k of a decoded image (42_raster_assembler.md R183, R185). -/
theorem getElem_decodedImage (s : State) (w h : BitVec 8) (k : Nat) (hk : k < (decodedImage s w h).length) :
    (decodedImage s w h)[k] =
      palLookup s (pixelIndex (srcRead s) s.latch.addr.toNat w.toNat (k % (8 * w.toNat)) (k / (8 * w.toNat))) := by
  simp [decodedImage, rasterIndices]

/-- Pixel (x, y) is entry y·8W + x: the entry's column and row are x and y (42_raster_assembler.md R183). -/
theorem pixel_position {w x y : Nat} (hx : x < w) : (y * w + x) % w = x ∧ (y * w + x) / w = y := by
  constructor
  · rw [Nat.add_comm, Nat.add_mul_mod_self_right, Nat.mod_eq_of_lt hx]
  · rw [Nat.add_comm, Nat.add_mul_div_right _ _ (by omega), Nat.div_eq_of_lt hx, Nat.zero_add]

end Sys2Proof.Machine
end

