-- ==== Sys2Proof/Laws/Exec.lean ====
section
/-! SUPPORT. What each command can do, once: its ends, and the parts of the state it never touches. -/

namespace Sys2Proof.Machine

/-- The end of a completion: the flags, from a state that differs from the start in the source port's trace only (an error), or
in what a successful command wrote as well. -/
theorem execPload_cases {s t : State} (h : execPload s = .next t) :
    (t = raiseError .sourceUnavailable 0 s ∧ s.latch.srcEn = false) ∨
    (t = raiseError .malformedPalette (BitVec.ofNat 32 (latchAvail s 32)) (request 32 s) ∧ s.latch.srcEn = true) ∨
    (t = succeed (loadPalette (request 32 s)) ∧ s.latch.srcEn = true) := by
  cases h
  rcases withSource_cases 32 .malformedPalette loadPalette s with ⟨h, e⟩ | ⟨h, -, e⟩ | ⟨h, -, e⟩
  · exact .inl ⟨e, h⟩
  · exact .inr (.inl ⟨e, h⟩)
  · exact .inr (.inr ⟨e, h⟩)

theorem execTunpk_cases {s t : State} (h : execTunpk s = .next t) :
    (t = raiseError .sourceUnavailable 0 s ∧ s.latch.srcEn = false) ∨
    (t = raiseError .truncatedTileData (BitVec.ofNat 32 (latchAvail s 32)) (request 32 s) ∧ s.latch.srcEn = true) ∨
    (t = succeed (loadTile (request 32 s)) ∧ s.latch.srcEn = true) := by
  cases h
  rcases withSource_cases 32 .truncatedTileData loadTile s with ⟨h, e⟩ | ⟨h, -, e⟩ | ⟨h, -, e⟩
  · exact .inl ⟨e, h⟩
  · exact .inr (.inl ⟨e, h⟩)
  · exact .inr (.inr ⟨e, h⟩)

theorem execAsm_cases {w h : BitVec 8} {s t : State} (e : execAsm w h s = .next t) :
    (t = raiseError .frameTooLarge (BitVec.ofNat 32 (gridPixels w h)) s ∧ s.fbMaxPixels < gridPixels w h) ∨
    (gridPixels w h ≤ s.fbMaxPixels ∧ t = raiseError .paletteEmpty 0 s ∧ s.palCount = 0) ∨
    (gridPixels w h ≤ s.fbMaxPixels ∧ s.palCount ≠ 0 ∧ t = raiseError .sourceUnavailable 0 s ∧ s.latch.srcEn = false) ∨
    (gridPixels w h ≤ s.fbMaxPixels ∧ s.palCount ≠ 0 ∧ s.latch.srcEn = true ∧
      t = raiseError .truncatedTileData (BitVec.ofNat 32 (latchAvail s (gridBytes w h))) (request (gridBytes w h) s)) ∨
    (gridPixels w h ≤ s.fbMaxPixels ∧ s.palCount ≠ 0 ∧ s.latch.srcEn = true ∧
      t = succeed (assemble w h (request (gridBytes w h) s))) := by
  cases e
  by_cases hc : s.fbMaxPixels < gridPixels w h
  · exact .inl ⟨withCapacity_tooLarge hc, hc⟩
  · have hc' : gridPixels w h ≤ s.fbMaxPixels := by omega
    rw [withCapacity_fits hc']
    unfold assembleFromPalette
    split
    · exact .inr (.inl ⟨hc', rfl, ‹_›⟩)
    · rcases withSource_cases (gridBytes w h) .truncatedTileData (assemble w h) s with ⟨h, e⟩ | ⟨h, -, e⟩ | ⟨h, -, e⟩
      · exact .inr (.inr (.inl ⟨hc', ‹_›, e, h⟩))
      · exact .inr (.inr (.inr (.inl ⟨hc', ‹_›, h, e⟩)))
      · exact .inr (.inr (.inr (.inr ⟨hc', ‹_›, h, e⟩)))

theorem execPhold_cases {w h : BitVec 8} {s t : State} (e : execPhold w h s = .next t) :
    (t = raiseError .frameTooLarge (BitVec.ofNat 32 (gridPixels w h)) s ∧ s.fbMaxPixels < gridPixels w h) ∨
    (gridPixels w h ≤ s.fbMaxPixels ∧ t = placeholder w h s) := by
  cases e
  by_cases hc : s.fbMaxPixels < gridPixels w h
  · exact .inl ⟨withCapacity_tooLarge hc, hc⟩
  · exact .inr ⟨by omega, withCapacity_fits (by omega)⟩

/-- A completion: an error that writes nothing else, or the success of one of the six commands. -/
theorem exec_cases {i : Instr} {s t : State} (h : exec i s = .next t) :
    (∃ e n q, t = raiseError e n { s with requests := q }) ∨
    (i = .nop ∧ t = succeed s) ∨
    (i = .pload ∧ t = succeed (loadPalette (request 32 s))) ∨
    (i = .pclr ∧ t = succeed { s with palCount := 0, palOff := 0 }) ∨
    (i = .tunpk ∧ t = succeed (loadTile (request 32 s))) ∨
    (∃ w h, i = .asm w h ∧ gridPixels w h ≤ s.fbMaxPixels ∧ s.palCount ≠ 0 ∧
      t = succeed (assemble w h (request (gridBytes w h) s))) ∨
    (∃ w h, i = .phold w h ∧ gridPixels w h ≤ s.fbMaxPixels ∧ t = placeholder w h s) := by
  cases i with
  | nop => cases h; exact .inr (.inl ⟨rfl, rfl⟩)
  | pclr => cases h; exact .inr (.inr (.inr (.inl ⟨rfl, rfl⟩)))
  | pload =>
    obtain ⟨rfl, -⟩ | ⟨rfl, -⟩ | ⟨rfl, -⟩ := execPload_cases h
    · exact .inl ⟨_, _, s.requests, rfl⟩
    · exact .inl ⟨_, _, _, rfl⟩
    · exact .inr (.inr (.inl ⟨rfl, rfl⟩))
  | tunpk =>
    obtain ⟨rfl, -⟩ | ⟨rfl, -⟩ | ⟨rfl, -⟩ := execTunpk_cases h
    · exact .inl ⟨_, _, s.requests, rfl⟩
    · exact .inl ⟨_, _, _, rfl⟩
    · exact .inr (.inr (.inr (.inr (.inl ⟨rfl, rfl⟩))))
  | asm w h' =>
    obtain ⟨rfl, -⟩ | ⟨-, rfl, -⟩ | ⟨-, -, rfl, -⟩ | ⟨-, -, -, rfl⟩ | ⟨hc, hp, -, rfl⟩ := execAsm_cases h
    · exact .inl ⟨_, _, s.requests, rfl⟩
    · exact .inl ⟨_, _, s.requests, rfl⟩
    · exact .inl ⟨_, _, s.requests, rfl⟩
    · exact .inl ⟨_, _, _, rfl⟩
    · exact .inr (.inr (.inr (.inr (.inr (.inl ⟨_, _, rfl, hc, hp, rfl⟩)))))
  | phold w h' =>
    obtain ⟨rfl, -⟩ | ⟨hc, rfl⟩ := execPhold_cases h
    · exact .inl ⟨_, _, s.requests, rfl⟩
    · exact .inr (.inr (.inr (.inr (.inr (.inr ⟨_, _, rfl, hc, rfl⟩)))))

/-- Every command's meaning answers a next state: no command faults or is refused (60_exceptions.md R250). -/
theorem exec_next (i : Instr) (s : State) : ∃ t, exec i s = .next t := by cases i <;> exact ⟨_, rfl⟩

/-- What no command touches. -/
theorem exec_frame {i : Instr} {s t : State} (h : exec i s = .next t) :
    t.srcEn = s.srcEn ∧ t.ovr = s.ovr ∧ t.cmd = s.cmd ∧ t.addr = s.addr ∧ t.srcLen = s.srcLen ∧ t.latch = s.latch ∧
      t.fbMaxPixels = s.fbMaxPixels ∧ t.src = s.src ∧ t.readData = s.readData ∧ t.draws = s.draws ∧ t.host = s.host ∧
      t.events = s.events := by
  obtain ⟨_, _, _, rfl⟩ | ⟨-, rfl⟩ | ⟨-, rfl⟩ | ⟨-, rfl⟩ | ⟨-, rfl⟩ | ⟨_, _, -, -, -, rfl⟩ | ⟨_, _, -, -, rfl⟩ := exec_cases h <;>
    exact ⟨rfl, rfl, rfl, rfl, rfl, rfl, rfl, rfl, rfl, rfl, rfl, rfl⟩

/-- The common completion writes (43_control.md R213). -/
theorem exec_completes {i : Instr} {s t : State} (h : exec i s = .next t) : t.busy = false ∧ t.done = true := by
  obtain ⟨_, _, _, rfl⟩ | ⟨-, rfl⟩ | ⟨-, rfl⟩ | ⟨-, rfl⟩ | ⟨-, rfl⟩ | ⟨_, _, -, -, -, rfl⟩ | ⟨_, _, -, -, rfl⟩ := exec_cases h <;>
    exact ⟨rfl, rfl⟩

end Sys2Proof.Machine
end

