-- ==== Sys2Proof/Laws/Pixels.lean ====
section
/-! SUPPORT. Colour channels, nibbles, tile rows and status words as numbers, so that `omega` can finish. -/

namespace Sys2Proof

/-! ## Masks -/

theorem and_1 (n : Nat) : n &&& 1 = n % 2 := Nat.and_two_pow_sub_one_eq_mod n 1
theorem and_15 (n : Nat) : n &&& 0xF = n % 16 := Nat.and_two_pow_sub_one_eq_mod n 4
theorem and_31 (n : Nat) : n &&& 0x1F = n % 32 := Nat.and_two_pow_sub_one_eq_mod n 5

/-- A mask of five bits at bit `k`. -/
theorem and_31_shifted (n k : Nat) : (n &&& (0x1F <<< k)) >>> k = n / 2 ^ k % 32 := by
  rw [Nat.shiftRight_and_distrib, Nat.shiftLeft_shiftRight, and_31, Nat.shiftRight_eq_div_pow]

theorem toNat_ofBool (b : Bool) : (BitVec.ofBool b).toNat = b.toNat := by cases b <;> rfl

namespace Machine

/-! ## The channels of a 15-bit colour (spec/40_palette.md R141) -/

theorem col15_r (c : BitVec 16) : (col15 c).r.toNat = 8 * (c.toNat % 32) := by
  simp only [col15, and_31, BitVec.toNat_ofNat]; omega

theorem col15_g (c : BitVec 16) : (col15 c).g.toNat = 8 * (c.toNat / 32 % 32) := by
  have := and_31_shifted c.toNat 5
  simp only [col15, BitVec.toNat_ofNat, show (0x03E0 : Nat) = 0x1F <<< 5 from rfl, this]; omega

theorem col15_b (c : BitVec 16) : (col15 c).b.toNat = 8 * (c.toNat / 1024 % 32) := by
  have := and_31_shifted c.toNat 10
  simp only [col15, BitVec.toNat_ofNat, show (0x7C00 : Nat) = 0x1F <<< 10 from rfl, this]; omega

/-- Triples with equal channels are equal. -/
theorem Rgb.ext_toNat {x y : Rgb} (hr : x.r.toNat = y.r.toNat) (hg : x.g.toNat = y.g.toNat) (hb : x.b.toNat = y.b.toNat) :
    x = y := by
  cases x; cases y
  simp only [Rgb.mk.injEq]
  exact ⟨BitVec.eq_of_toNat_eq hr, BitVec.eq_of_toNat_eq hg, BitVec.eq_of_toNat_eq hb⟩

/-- A little-endian half word as a number (spec/00_scope.md R17). -/
theorem srcRead16_toNat (s : State) (a : Nat) :
    (srcRead16 s a).toNat = (srcRead s a).toNat + 256 * (srcRead s (a + 1)).toNat := by
  rw [srcRead16, toNat_append_mul]; omega

/-! ## Nibbles and tile rows (spec/41_tile_unpacker.md R161, spec/10_state.md R52) -/

theorem nibbleOf_low (b : Byte) : (nibbleOf b 0).toNat = b.toNat % 16 := by
  simp only [nibbleOf, and_15, BitVec.toNat_ofNat]; simp

theorem nibbleOf_high (b : Byte) : (nibbleOf b 1).toNat = b.toNat / 16 := by
  have := b.isLt
  simp only [nibbleOf, and_15, BitVec.toNat_ofNat, Nat.shiftRight_eq_div_pow]; omega

theorem packRow_toNat (row : Vector Nibble 8) :
    (packRow row).toNat = row[0].toNat + 16 * row[1].toNat + 256 * row[2].toNat + 4096 * row[3].toNat +
      65536 * row[4].toNat + 1048576 * row[5].toNat + 16777216 * row[6].toNat + 268435456 * row[7].toNat := by
  simp only [packRow, toNat_append_mul]; omega

/-! ## Words -/

theorem rgbWord_toNat (c : Rgb) : (rgbWord c).toNat = c.r.toNat + 256 * c.g.toNat + 65536 * c.b.toNat := by
  simp only [rgbWord, toNat_append_mul]; simp; omega

theorem statusWord_toNat (s : State) :
    (statusWord s).toNat = 256 * s.err.toNat + 4 * s.ovr.toNat + 2 * s.done.toNat + s.busy.toNat := by
  simp only [statusWord, toNat_append_mul, toNat_ofBool]; simp; omega

end Machine
end Sys2Proof
end

