-- ==== Sys2Proof/Laws/Memory.lean ====
section
/-! SUPPORT. The canonical form of sparse storage: reads after writes, and that every write keeps the form. -/

namespace Sys2Proof.Machine

section
variable {α : Type} [DecidableEq α] {d : α}

theorem cellsWf_iff {l : List (Nat × α)} :
    cellsWf d l = true ↔ (l.Pairwise fun p q => p.1 < q.1) ∧ ∀ p ∈ l, p.2 ≠ d := by
  simp [cellsWf, List.all_eq_true]

theorem cellsWf_cons {k : Nat} {v : α} {l : List (Nat × α)} :
    cellsWf d ((k, v) :: l) = true ↔ (∀ p ∈ l, k < p.1) ∧ v ≠ d ∧ cellsWf d l = true := by
  simp only [cellsWf_iff, List.pairwise_cons, List.forall_mem_cons]
  tauto

@[simp] theorem cellsWf_nil : cellsWf d ([] : List (Nat × α)) = true := rfl

omit [DecidableEq α] in
/-- A key below every listed key reads as unlisted. -/
theorem cellsRead_below {l : List (Nat × α)} {a : Nat} (h : ∀ p ∈ l, a < p.1) : cellsRead d l a = d := by
  induction l with
  | nil => rfl
  | cons p l ih =>
    have hp := h p (by simp)
    rw [cellsRead, if_neg (by omega), ih fun q hq => h q (by simp [hq])]

theorem cellsRead_cellsCons {l : List (Nat × α)} {a b : Nat} {v : α} (h : ∀ p ∈ l, a < p.1) :
    cellsRead d (cellsCons d a v l) b = if b = a then v else cellsRead d l b := by
  unfold cellsCons
  by_cases hv : v = d
  · by_cases hb : b = a
    · simp [hv, hb, cellsRead_below h]
    · simp [hv, hb]
  · simp [hv, cellsRead]

theorem mem_cellsCons {l : List (Nat × α)} {a : Nat} {v : α} {p : Nat × α} (h : p ∈ cellsCons d a v l) :
    p = (a, v) ∨ p ∈ l := by
  unfold cellsCons at h
  split at h <;> simp_all

theorem cellsWf_cellsCons {l : List (Nat × α)} {a : Nat} {v : α} (hl : cellsWf d l = true) (h : ∀ p ∈ l, a < p.1) :
    cellsWf d (cellsCons d a v l) = true := by
  unfold cellsCons
  split
  · exact hl
  · exact cellsWf_cons.2 ⟨h, ‹_›, hl⟩

/-- A written key is the only new key. -/
theorem mem_cellsWrite {l : List (Nat × α)} {a : Nat} {v : α} {p : Nat × α} (h : p ∈ cellsWrite d l a v) :
    p = (a, v) ∨ p ∈ l := by
  induction l with
  | nil => exact mem_cellsCons h
  | cons q l ih =>
    rw [cellsWrite] at h
    split at h
    · exact mem_cellsCons h
    · split at h
      · rcases mem_cellsCons h with h | h <;> simp [h]
      · rcases List.mem_cons.1 h with h | h
        · simp [h]
        · rcases ih h with h | h <;> simp [h]

/-- Every write keeps the canonical form. -/
theorem cellsWf_cellsWrite {l : List (Nat × α)} {a : Nat} {v : α} (hl : cellsWf d l = true) :
    cellsWf d (cellsWrite d l a v) = true := by
  induction l with
  | nil => exact cellsWf_cellsCons hl (by simp)
  | cons q l ih =>
    obtain ⟨hlt, hv, hwf⟩ := cellsWf_cons.1 hl
    rw [cellsWrite]
    split
    · refine cellsWf_cellsCons hl fun p hp => ?_
      rcases List.mem_cons.1 hp with rfl | hp
      · assumption
      · have := hlt p hp; omega
    · split
      · subst a; exact cellsWf_cellsCons hwf hlt
      · refine cellsWf_cons.2 ⟨fun p hp => ?_, hv, ih hwf⟩
        rcases mem_cellsWrite hp with rfl | hp
        · show q.1 < a; omega
        · exact hlt p hp

/-- A read after a write: the written key has the value, every other key keeps its own. -/
theorem cellsRead_cellsWrite {l : List (Nat × α)} {a b : Nat} {v : α} (hl : cellsWf d l = true) :
    cellsRead d (cellsWrite d l a v) b = if b = a then v else cellsRead d l b := by
  induction l with
  | nil => exact cellsRead_cellsCons (by simp)
  | cons q l ih =>
    obtain ⟨hlt, -, hwf⟩ := cellsWf_cons.1 hl
    rw [cellsWrite]
    split
    · refine cellsRead_cellsCons fun p hp => ?_
      rcases List.mem_cons.1 hp with rfl | hp
      · assumption
      · have := hlt p hp; omega
    · split
      · subst a
        rw [cellsRead_cellsCons hlt, cellsRead]
        split <;> rfl
      · rw [cellsRead, cellsRead, ih hwf]
        split <;> split <;> simp_all

end

theorem Memory.wf_iff {m : List Host.Cell} :
    Memory.wf m = true ↔ cellsWf Memory.unlisted m = true ∧ ∀ p ∈ m, p.1 < 2 ^ 32 := by
  simp [Memory.wf, List.all_eq_true]

/-- Reset's byte source has the canonical form. -/
theorem Memory.wf_reset : Memory.wf State.reset.src = true := rfl

/-- A write at a 32-bit address keeps the canonical form. -/
theorem Memory.wf_write {m : List Host.Cell} {a : Nat} {b : Byte} (hm : Memory.wf m = true) (ha : a < 2 ^ 32) :
    Memory.wf (Memory.write m a b) = true := by
  obtain ⟨h1, h2⟩ := Memory.wf_iff.1 hm
  refine Memory.wf_iff.2 ⟨cellsWf_cellsWrite h1, fun p hp => ?_⟩
  rcases mem_cellsWrite hp with rfl | hp
  · exact ha
  · exact h2 p hp

/-- A read of the byte source after a write. -/
theorem Memory.read_write {m : List Host.Cell} {a c : Nat} {b : Byte} (hm : Memory.wf m = true) :
    Memory.read (Memory.write m a b) c = if c = a then b else Memory.read m c :=
  cellsRead_cellsWrite (Memory.wf_iff.1 hm).1

end Sys2Proof.Machine
end

