-- ==== Sys2Proof/Laws/Mmio.lean ====
section
/-! SUPPORT. The register map, and everything a host read or write can do. -/

namespace Sys2Proof.Machine

/-- The offset of an existing register maps back to the register (10_state.md R33). -/
theorem regAt_offset {cap : Nat} (r : Reg) (hr : ∀ k, r = .fb k → k < cap) : regAt cap r.offset = some r := by
  cases r with
  | pal i =>
    have := i.isLt
    rw [regAt, if_neg (by simp only [Reg.offset]; omega), if_pos (by simp only [Reg.offset]; omega)]
    simp [Reg.offset]
  | tidxRow i =>
    have := i.isLt
    rw [regAt, if_neg (by simp only [Reg.offset]; omega), if_neg (by simp only [Reg.offset]; omega),
      if_pos (by simp only [Reg.offset]; omega)]
    simp [Reg.offset]
  | fb k =>
    have := hr k rfl
    have hk : (Reg.offset (.fb k) - 0x10000) / 4 = k := by simp only [Reg.offset]; omega
    rw [regAt, if_neg (by simp only [Reg.offset]; omega), if_neg (by simp only [Reg.offset]; omega),
      if_neg (by simp only [Reg.offset]; omega), if_neg (by simp only [Reg.offset]; omega), hk, if_pos this]
  | _ => rfl

/-- Every register offset is aligned. -/
theorem offset_aligned (r : Reg) : r.offset % 4 = 0 := by
  cases r <;> simp only [Reg.offset] <;> omega

/-- Under a capacity that 00_scope.md R12 allows, every register offset lies inside the window. -/
theorem offset_lt {cap : Nat} (hc : cap ≤ 65536) (r : Reg) (hr : ∀ k, r = .fb k → k < cap) : r.offset < 2 ^ 20 := by
  cases r with
  | pal i => have := i.isLt; simp only [Reg.offset]; omega
  | tidxRow i => have := i.isLt; simp only [Reg.offset]; omega
  | fb k => have := hr k rfl; simp only [Reg.offset]; omega
  | _ => decide

theorem inContract_offset {cap : Nat} (hc : cap ≤ 65536) (r : Reg) (hr : ∀ k, r = .fb k → k < cap) :
    inContract r.offset 32 = true := decide_eq_true ⟨rfl, offset_aligned r, offset_lt hc r hr⟩

/-- A register the map answers exists. -/
theorem regAt_exists {cap off k : Nat} (h : regAt cap off = some (.fb k)) : k < cap := by
  unfold regAt at h
  repeat' split at h
  · rename_i hl
    have hn : off / 4 < 16 := by omega
    generalize off / 4 = n at h hn
    interval_cases n <;> simp [lowReg] at h
  · simp at h
  · simp at h
  · simp at h
  · simp at h; omega
  · simp at h

/-- A host read touches the read-data bus and the draw counter only. -/
theorem readReg_frame (r : Reg) (s : State) :
    ∃ v n, readReg r s = { s with readData := v, draws := n } := by
  unfold readReg
  split
  · exact ⟨_, _, rfl⟩
  · exact ⟨_, s.draws, rfl⟩

/-- Everything a host write can do (20_memory.md R93). -/
theorem writeReg_cases (r : Reg) (v : Word) (s : State) :
    (r = .ctrl ∧ writeReg r v s = { s with srcEn := v.getLsbD 0 }) ∨
    (r = .status ∧ writeReg r v s = flagsWritten v s) ∨
    (r = .cmd ∧ s.busy = true ∧ writeReg r v s = { s with ovr := true }) ∨
    (r = .cmd ∧ s.busy = false ∧ writeReg r v s = accept v s) ∨
    (r = .addr ∧ writeReg r v s = { s with addr := v }) ∨
    (r = .srcLen ∧ writeReg r v s = { s with srcLen := v }) ∨
    (r ∉ [Reg.ctrl, .status, .cmd, .addr, .srcLen] ∧ writeReg r v s = s) := by
  cases r with
  | cmd =>
    cases hb : s.busy <;> simp [writeReg, writeCmd, hb]
  | _ => simp [writeReg]

/-- A bus access that answers met the contract. -/
theorem busWrite_next {off width : Nat} {v : Word} {s t : State} (h : busWrite off width v s = .next t) :
    inContract off width = true ∧
      ((∃ r, regAt s.fbMaxPixels off = some r ∧ t = writeReg r v s) ∨ (regAt s.fbMaxPixels off = none ∧ t = s)) := by
  unfold busWrite at h
  split at h
  · refine ⟨‹_›, ?_⟩
    split at h
    · exact .inl ⟨_, ‹_›, by cases h; rfl⟩
    · exact .inr ⟨‹_›, by cases h; rfl⟩
  · cases h

/-- A bus read that answers touches the read-data bus and the draw counter only. -/
theorem busRead_next {off width : Nat} {s t : State} (h : busRead off width s = .next t) :
    ∃ v n, t = { s with readData := v, draws := n } := by
  unfold busRead at h
  split at h
  · split at h
    · obtain ⟨v, n, e⟩ := readReg_frame ‹Reg› s
      cases h
      exact ⟨v, n, e⟩
    · cases h; exact ⟨0, s.draws, rfl⟩
  · cases h

theorem busWrite_offset {s : State} (hc : s.fbMaxPixels ≤ 65536) {r : Reg} (hr : ∀ k, r = .fb k → k < s.fbMaxPixels) (v : Word) :
    busWrite r.offset 32 v s = .next (writeReg r v s) := by
  rw [busWrite, if_pos (inContract_offset hc r hr), regAt_offset r hr]

theorem busRead_offset {s : State} (hc : s.fbMaxPixels ≤ 65536) {r : Reg} (hr : ∀ k, r = .fb k → k < s.fbMaxPixels) :
    busRead r.offset 32 s = .next (readReg r s) := by
  rw [busRead, if_pos (inContract_offset hc r hr), regAt_offset r hr]

end Sys2Proof.Machine
end

