-- ==== Sys2Proof/Laws/Step.lean ====
section
/-! SUPPORT. What a step can do, once: a completion, a reset, a host write, or a step that leaves the block as it is. -/

namespace Sys2Proof.Machine

/-- Steps that leave the block and the source as they are: only the read-data bus, the draw counter and the host agent move. -/
structure Quiet (s t : State) : Prop where
  same : t = { s with readData := t.readData, draws := t.draws, host := t.host }
  varsWf : cellsWf 0 s.host.vars = true → cellsWf 0 t.host.vars = true

theorem Quiet.rfl' (s : State) : Quiet s s := ⟨rfl, id⟩

/-- A move of the host agent only. -/
theorem Quiet.withHost (s : State) {c : HostCtx} (h : cellsWf 0 s.host.vars = true → cellsWf 0 c.vars = true) :
    Quiet s (s.withHost c) := ⟨rfl, h⟩

/-- The machine with the next input taken from the list. -/
def popped (s : State) : State := { s with events := s.events.tail }

/-! ## The host agent -/

theorem regExists_iff {s : State} {r : Reg} : regExists s r = true ↔ ∀ k, r = .fb k → k < s.fbMaxPixels := by
  cases r <;> simp [regExists]

/-- Forming a data word uses a draw at most. -/
theorem wordFormed_frame (v : Nat) (s : State) : ∃ n, wordFormed v s = { s with draws := n } := by
  unfold wordFormed
  split
  · exact ⟨s.draws, rfl⟩
  · exact ⟨_, rfl⟩

theorem hostWord_fits {v : Nat} (s : State) (h : v < 2 ^ 32) : hostWord v s = BitVec.ofNat 32 v := if_pos h

theorem wordFormed_fits {v : Nat} (s : State) (h : v < 2 ^ 32) : wordFormed v s = s := if_pos h

/-- A host write that answers is a write of its data word, after host business. -/
theorem hostWrite_next {r : Reg} {v : Nat} {s t : State} (h : hostWrite r v s = .next t) :
    ∃ u, Quiet s u ∧ t = writeReg r (hostWord v s) u := by
  unfold hostWrite at h
  split at h
  · cases h
  · split at h
    · rename_i hr
      obtain ⟨n, hn⟩ := wordFormed_frame v s
      rw [hn] at h
      have hat : regAt s.fbMaxPixels r.offset = some r := regAt_offset r (regExists_iff.1 hr)
      obtain ⟨-, ⟨q, hq, rfl⟩ | ⟨hq, -⟩⟩ := busWrite_next h <;> cases hat.symm.trans hq
      refine ⟨_, ?_, rfl⟩
      exact ⟨rfl, id⟩
    · cases h

theorem varsWf_set {c : HostCtx} {x : HostVar} {v : Nat} (h : cellsWf 0 c.vars = true) : cellsWf 0 (c.set x v).vars = true :=
  cellsWf_cellsWrite h

/-- A host name after an assignment. -/
theorem get_set {c : HostCtx} {x y : HostVar} {v : Nat} (h : cellsWf 0 c.vars = true) :
    (c.set x v).get y = if y = x then v else c.get y := cellsRead_cellsWrite h

theorem hostRead_next {r : Reg} {x : HostVar} {s t : State} (h : hostRead r x s = .next t) : Quiet s t := by
  unfold hostRead at h
  split at h
  · split at h
    · rename_i u hu
      obtain ⟨v, n, rfl⟩ := busRead_next hu
      cases h
      exact ⟨rfl, varsWf_set⟩
    · cases h
    · cases h
  · cases h

/-- The host's own part of an action keeps its names canonical. -/
theorem proceed_varsWf {op : HostInstr} {h c : HostCtx} (e : h.proceed op = .ok c) (hv : cellsWf 0 h.vars = true) :
    cellsWf 0 c.vars = true := by
  have jump : ∀ {l}, h.jumpTo l = .ok c → cellsWf 0 c.vars = true := fun e => by
    unfold HostCtx.jumpTo at e
    split at e
    · cases e; exact hv
    · cases e
  cases op with
  | ifGoto b l =>
    simp only [HostCtx.proceed] at e
    split at e
    · exact jump e
    · cases e; exact hv
  | goto l => exact jump e
  | assign x v => cases e; exact varsWf_set hv
  | _ => cases e; exact hv

theorem hostAction_business {op : HostInstr} {s : State} (h : op.isAccess = false) : hostAction op s = hostBusiness op s := by
  cases op <;> first | rfl | cases h

theorem hostBusiness_next {op : HostInstr} {s t : State} (h : hostBusiness op s = .next t) :
    ∃ c, s.host.proceed op = .ok c ∧ t = s.withHost c := by
  unfold hostBusiness at h
  split at h
  · cases h; exact ⟨_, ‹_›, rfl⟩
  · cases h

/-- A host action is a write of a register, or leaves the block as it is. -/
theorem hostAction_cases {op : HostInstr} {s t : State} (h : hostAction op s = .next t) :
    (∃ r e u, op = .wr r e ∧ Quiet s u ∧ t = writeReg r (hostWord (e.eval s.host) s) u) ∨
    ((∀ r e, op ≠ .wr r e) ∧ Quiet s t) := by
  cases op with
  | wr r e =>
    obtain ⟨u, q, rfl⟩ := hostWrite_next h
    exact .inl ⟨r, e, u, rfl, q, rfl⟩
  | rd r x => exact .inr ⟨by simp, hostRead_next h⟩
  | _ =>
    rw [hostAction_business rfl] at h
    obtain ⟨c, hc, rfl⟩ := hostBusiness_next h
    exact .inr ⟨by simp, Quiet.withHost s (proceed_varsWf hc)⟩

theorem hostTurn_cases {s t : State} (h : hostTurn s = .next t) :
    (∃ r v u, hostMove s = .write r v ∧ Quiet s u ∧ t = writeReg r v u) ∨ (hostMove s = .other ∧ Quiet s t) := by
  unfold hostTurn at h
  unfold hostMove
  split at h
  · rename_i op hop
    obtain ⟨r, e, u, rfl, q, rfl⟩ | ⟨hop', q⟩ := hostAction_cases h
    · exact .inl ⟨r, _, u, by rw [hop], q, rfl⟩
    · refine .inr ⟨?_, q⟩
      rw [hop]
      split
      · rename_i r v e; cases e; exact absurd rfl (hop' r v)
      · rfl
  · cases h
    rename_i hn
    refine .inr ⟨?_, Quiet.rfl' s⟩
    rw [hn]

/-! ## The engine, the source and the raw port -/

theorem complete_cases {s t : State} (h : complete s = .next t) :
    (∃ i, decode s.latch.cmd = .ok i ∧ exec i s = .next t) ∨
    (∃ r, decode s.latch.cmd = .error r ∧ t = completeIllegal s) := by
  unfold complete at h
  split at h
  · exact .inl ⟨_, ‹_›, h⟩
  · exact .inr ⟨_, ‹_›, by cases h; rfl⟩

theorem changeSource_next {a : Word} {b : Byte} {s t : State} (h : changeSource a b s = .next t) :
    t = { s with src := Memory.write s.src a.toNat b } := by
  unfold changeSource at h
  split at h
  · cases h
  · cases h; rfl

theorem rawWrite_cases {off width : Nat} {v : Word} {s t : State} (h : rawWrite off width v s = .next t) :
    (∃ r, rawMove s off v = .write r v ∧ t = writeReg r v s) ∨ (rawMove s off v = .other ∧ t = s) := by
  unfold rawWrite at h
  split at h
  · cases h
  · obtain ⟨-, ⟨r, hr, rfl⟩ | ⟨hr, rfl⟩⟩ := busWrite_next h
    · exact .inl ⟨r, by rw [rawMove, hr], rfl⟩
    · exact .inr ⟨by rw [rawMove, hr], rfl⟩

theorem rawRead_next {off width : Nat} {s t : State} (h : rawRead off width s = .next t) : Quiet s t := by
  unfold rawRead at h
  split at h
  · cases h
  · obtain ⟨v, n, rfl⟩ := busRead_next h
    exact ⟨rfl, id⟩

theorem issueProgram_next {p : List HostInstr} {s t : State} (h : issueProgram p s = .next t) : Quiet s t := by
  unfold issueProgram at h
  split at h
  · cases h; exact Quiet.withHost s fun _ => rfl
  · cases h

theorem issueSearch_next {o w h p count : Nat} {s t : State} (e : issueSearch o w h p count s = .next t) : Quiet s t := by
  unfold issueSearch at e
  split at e
  · split at e
    · cases e; exact Quiet.withHost s fun _ => rfl
    · cases e
  · cases e

/-! ## The step -/

theorem popped_nil {s : State} (h : s.events = []) : popped s = s := by
  cases s; cases h; rfl

theorem popped_cons {s : State} {e : Event} {rest : List Event} (h : s.events = e :: rest) :
    popped s = { s with events := rest } := by
  cases s; cases h; rfl

/-- What a step that answers a next state did. -/
theorem step_cases {s t : State} (h : step s = .next t) :
    (nextMove s = .complete ∧ s.busy = true ∧
      ((∃ i, decode s.latch.cmd = .ok i ∧ exec i (popped s) = .next t) ∨
       (∃ r, decode s.latch.cmd = .error r ∧ t = completeIllegal (popped s)))) ∨
    (nextMove s = .reset ∧ t = applyReset (popped s)) ∨
    (∃ r v u, nextMove s = .write r v ∧ Quiet (popped s) u ∧ t = writeReg r v u) ∨
    (nextMove s = .other ∧ Quiet (popped s) t) ∨
    (nextMove s = .other ∧ ∃ a b, (∃ rest, s.events = .source a b :: rest) ∧
      t = { popped s with src := Memory.write s.src a.toNat b }) := by
  unfold step takeTurn at h
  split at h
  · rename_i he
    rw [popped_nil he]
    unfold quietTurn at h
    split at h
    · rename_i hb
      exact .inl ⟨by simp [nextMove, he, hb], hb, complete_cases h⟩
    · rename_i hb
      rw [show nextMove s = hostMove s by simp [nextMove, he, hb]]
      obtain hw | ho := hostTurn_cases h
      · exact .inr (.inr (.inl hw))
      · exact .inr (.inr (.inr (.inl ho)))
  · rename_i e rest he
    rw [← popped_cons he] at h
    cases e with
    | read off width => exact .inr (.inr (.inr (.inl ⟨by simp [nextMove, he], rawRead_next h⟩)))
    | write off width v =>
      rw [show nextMove s = rawMove (popped s) off.toNat v by simp only [nextMove, he]; rfl]
      obtain ⟨r, e1, e2⟩ | ⟨e1, rfl⟩ := rawWrite_cases h
      · exact .inr (.inr (.inl ⟨r, v, popped s, e1, Quiet.rfl' _, e2⟩))
      · exact .inr (.inr (.inr (.inl ⟨e1, Quiet.rfl' _⟩)))
    | engine =>
      simp only [perform, engineTurn] at h
      split at h
      · rename_i hb
        have hb : s.busy = true := hb
        exact .inl ⟨by simp [nextMove, he, hb], hb, complete_cases h⟩
      · rename_i hb
        have hb : ¬ s.busy = true := hb
        cases h
        exact .inr (.inr (.inr (.inl ⟨by simp [nextMove, he, hb], Quiet.rfl' _⟩)))
    | reset => cases h; exact .inr (.inl ⟨by simp [nextMove, he], rfl⟩)
    | source a b =>
      exact .inr (.inr (.inr (.inr ⟨by simp [nextMove, he], a, b, ⟨rest, he⟩, changeSource_next h⟩)))
    | host =>
      rw [show nextMove s = hostMove (popped s) by simp only [nextMove, he]; rfl]
      obtain hw | ho := hostTurn_cases h
      · exact .inr (.inr (.inl hw))
      · exact .inr (.inr (.inr (.inl ho)))
    | program p => exact .inr (.inr (.inr (.inl ⟨by simp [nextMove, he], issueProgram_next h⟩)))
    | search o w h' p count => exact .inr (.inr (.inr (.inl ⟨by simp [nextMove, he], issueSearch_next h⟩)))

/-! ## Runs -/

@[simp] theorem reaches_zero {s t : State} : reaches 0 s t ↔ s = t :=
  ⟨fun h => by cases h; rfl, fun h => by rw [h]; rfl⟩

theorem reaches_succ {n : Nat} {s t : State} : reaches (n + 1) s t ↔ ∃ u, step s = .next u ∧ reaches n u t := by
  unfold reaches
  rw [show Sys2Proof.core.run = Host.Core.run Sys2Proof.core from rfl]
  simp only [Host.Core.run]
  rw [show Sys2Proof.core.step s = step s from rfl]
  cases step s with
  | next u => exact ⟨fun h => ⟨u, rfl, h⟩, fun ⟨_, h, h'⟩ => by cases h; exact h'⟩
  | fault f => simp
  | refused q => simp

end Sys2Proof.Machine
end

