-- ==== Sys2Proof/Laws/Host.lean ====
section
/-! SUPPORT. Runs of a host program with no other input to come: what one action does, and the straight-line pieces `RUN` and
the reads of a record. -/

namespace Sys2Proof.Machine

/-! ## Runs -/

/-- Some number of steps leads from `s` to `t`. -/
def Runs (s t : State) : Prop := ∃ n, reaches n s t

theorem Runs.rfl' (s : State) : Runs s s := ⟨0, reaches_zero.2 rfl⟩

theorem Runs.head {s t u : State} (h : step s = .next t) : Runs t u → Runs s u
  | ⟨n, hn⟩ => ⟨n + 1, reaches_succ.2 ⟨t, h, hn⟩⟩

theorem Runs.trans {s t u : State} : Runs s t → Runs t u → Runs s u
  | ⟨n, hn⟩, h => by
    induction n generalizing s with
    | zero => rwa [reaches_zero.1 hn]
    | succ n ih =>
      obtain ⟨v, hv, hn⟩ := reaches_succ.1 hn
      exact (ih hn).head hv

/-! ## The code still to run -/

/-- The actions from the host's next one on. -/
def code (s : State) : List HostInstr := s.host.program.drop s.host.pc

theorem code_next {s : State} {op : HostInstr} {rest : List HostInstr} (h : code s = op :: rest) :
    s.host.program[s.host.pc]? = some op := by
  have := congrArg (·[0]?) h
  simpa [code] using this

theorem code_advance {s : State} {op : HostInstr} {rest : List HostInstr} (h : code s = op :: rest) :
    s.host.program.drop (s.host.pc + 1) = rest := by
  rw [← List.drop_drop, show s.host.program.drop s.host.pc = op :: rest from h]
  rfl

/-- The code after an action that goes on with the next one. -/
theorem code_step {s t : State} {op : HostInstr} {rest : List HostInstr} (h : code s = op :: rest)
    (hp : t.host.program = s.host.program) (hn : t.host.pc = s.host.pc + 1) : code t = rest := by
  rw [code, hp, hn]; exact code_advance h

theorem code_nil {s : State} (h : code s = []) : s.host.program.length ≤ s.host.pc := List.drop_eq_nil_iff.1 h

/-- A label that does not stand before is found where it stands. -/
theorem labelIndex_append {l : HostLabel} {pre suf : List HostInstr} (h : HostInstr.label l ∉ pre) :
    labelIndex l (pre ++ .label l :: suf) = some pre.length := by
  induction pre with
  | nil => simp [labelIndex]
  | cons op pre ih =>
    have hp := ih fun hm => h (List.mem_cons_of_mem _ hm)
    cases op with
    | label m =>
      have hm : m ≠ l := fun e => h (by simp [e])
      simp [labelIndex, hm, hp]
    | _ => simp [labelIndex, hp]

/-! ## One action -/

/-- Nothing else is to come: no input and no command in flight. -/
structure Idle (s : State) : Prop where
  events : s.events = []
  busy : s.busy = false
  capacity : s.fbMaxPixels ≤ 65536

theorem step_action {s t : State} {op : HostInstr} {rest : List HostInstr} (hi : Idle s) (hc : code s = op :: rest)
    (h : hostAction op s = .next t) : step s = .next t := by
  rw [← h, step, takeTurn, hi.events]
  simp only [quietTurn, hi.busy, Bool.false_eq_true, if_false, hostTurn, code_next hc]

theorem step_complete {s : State} (he : s.events = []) (hb : s.busy = true) : step s = complete s := by
  rw [step, takeTurn, he]
  simp only [quietTurn, hb, if_true]

/-- `t` is reached by host business alone: the block and the source are as they were in `s`. -/
structure Ran (s t : State) : Prop where
  runs : Runs s t
  same : t = { s with readData := t.readData, host := t.host }

theorem Ran.trans {s t u : State} (a : Ran s t) (b : Ran t u) : Ran s u :=
  ⟨a.runs.trans b.runs, by rw [b.same, a.same]⟩

theorem Ran.idle {s t : State} (a : Ran s t) (hi : Idle s) : Idle t := by
  rw [a.same]
  exact ⟨hi.events, hi.busy, hi.capacity⟩

/-- An action that leaves the block alone. -/
theorem ran_action {s t : State} {op : HostInstr} {rest : List HostInstr} (hi : Idle s) (hc : code s = op :: rest)
    (h : hostAction op s = .next t) (hs : t = { s with readData := t.readData, host := t.host }) : Ran s t :=
  ⟨(Runs.rfl' t).head (step_action hi hc h), hs⟩

/-- A move of the host alone. -/
theorem ran_host {s : State} {c : HostCtx} {op : HostInstr} {rest : List HostInstr} (hi : Idle s) (hc : code s = op :: rest)
    (h : hostAction op s = .next (s.withHost c)) : Ran s (s.withHost c) := ran_action hi hc h rfl

theorem step_wr {s : State} {r : Reg} {e : HostExpr} {rest : List HostInstr} (hi : Idle s) (hc : code s = .wr r e :: rest)
    (hr : regExists s r = true) (hv : e.eval s.host < 2 ^ 32) :
    step s = .next (writeReg r (BitVec.ofNat 32 (e.eval s.host)) (s.withHost s.host.advance)) := by
  refine step_action hi hc ?_
  rw [hostAction, hostWrite, if_neg (by omega), if_pos hr, hostWord_fits s hv, wordFormed_fits s hv]
  exact busWrite_offset (s := s.withHost s.host.advance) hi.capacity (regExists_iff.1 hr) _

/-- A read with BUSY = 0. -/
theorem ran_rd {s : State} {r : Reg} {x : HostVar} {rest : List HostInstr} (hi : Idle s) (hc : code s = .rd r x :: rest)
    (hr : regExists s r = true) : ∃ t, Ran s t ∧ t.host = (s.host.set x (regValue s r).toNat).advance := by
  have h : readReg r (s.withHost s.host.advance) = { s with readData := regValue s r, host := s.host.advance } := by
    rw [readReg, if_neg (by simp [State.withHost, hi.busy])]
    cases r <;> rfl
  refine ⟨{ s with readData := regValue s r, host := (s.host.set x (regValue s r).toNat).advance }, ran_action hi hc ?_ rfl, rfl⟩
  rw [hostAction, hostRead, if_pos hr, busRead_offset (s := s.withHost s.host.advance) hi.capacity (regExists_iff.1 hr), h]
  rfl

theorem ran_skip {s : State} {c : HostCond} {l : HostLabel} {rest : List HostInstr} (hi : Idle s)
    (hc : code s = .ifGoto c l :: rest) (hf : c.eval s.host = false) : Ran s (s.withHost s.host.advance) :=
  ran_host hi hc (by simp only [hostAction, hostBusiness, HostCtx.proceed, hf]; rfl)

theorem ran_jump {s : State} {c : HostCond} {l : HostLabel} {n : Nat} {rest : List HostInstr} (hi : Idle s)
    (hc : code s = .ifGoto c l :: rest) (ht : c.eval s.host = true) (hl : labelIndex l s.host.program = some n) :
    Ran s (s.withHost { s.host with pc := n }) :=
  ran_host hi hc (by simp only [hostAction, hostBusiness, HostCtx.proceed, ht, if_true, HostCtx.jumpTo, hl])

theorem ran_goto {s : State} {l : HostLabel} {n : Nat} {rest : List HostInstr} (hi : Idle s)
    (hc : code s = .goto l :: rest) (hl : labelIndex l s.host.program = some n) :
    Ran s (s.withHost { s.host with pc := n }) :=
  ran_host hi hc (by simp only [hostAction, hostBusiness, HostCtx.proceed, HostCtx.jumpTo, hl])

/-- Reads of several registers into names that differ: each name holds its register's value, every other name what it held. -/
theorem ran_reads {s : State} {l : List (Reg × HostVar)} {rest : List HostInstr} (hi : Idle s)
    (hv : cellsWf 0 s.host.vars = true) (hc : code s = l.map (fun p => .rd p.1 p.2) ++ rest)
    (hr : ∀ p ∈ l, regExists s p.1 = true) (hx : (l.map (·.2)).Nodup) :
    ∃ t, Ran s t ∧ code t = rest ∧ t.host = { s.host with pc := t.host.pc, vars := t.host.vars } ∧
      cellsWf 0 t.host.vars = true ∧ (∀ p ∈ l, t.host.get p.2 = (regValue s p.1).toNat) ∧
      ∀ y, y ∉ l.map (·.2) → t.host.get y = s.host.get y := by
  induction l generalizing s with
  | nil => exact ⟨s, ⟨Runs.rfl' s, rfl⟩, hc, rfl, hv, by simp, by simp⟩
  | cons p l ih =>
    obtain ⟨t, ht, hh⟩ := ran_rd hi hc (hr p (by simp))
    have hb : regValue t = regValue s := by funext r; rw [ht.same]; cases r <;> rfl
    have hm : t.fbMaxPixels = s.fbMaxPixels := by rw [ht.same]
    obtain ⟨hx1, hx2⟩ := List.nodup_cons.1 (by simpa using hx : (p.2 :: l.map (·.2)).Nodup)
    obtain ⟨u, hu, hcu, hhu, hvu, hg, ho⟩ := ih (ht.idle hi) (by rw [hh]; exact varsWf_set hv)
      (code_step hc (by rw [hh]; rfl) (by rw [hh]; rfl))
      (fun q hq => by have := hr q (by simp [hq]); unfold regExists at this ⊢; rwa [hm]) hx2
    have hset : ∀ y, t.host.get y = if y = p.2 then (regValue s p.1).toNat else s.host.get y := fun y => by
      rw [hh]; exact get_set hv
    refine ⟨u, ht.trans hu, hcu, ?_, hvu, ?_, ?_⟩
    · rw [hhu, hh]; rfl
    · intro q hq
      rcases List.mem_cons.1 hq with rfl | hq
      · rw [ho _ hx1, hset, if_pos rfl]
      · rw [hg q hq, hb]
    · intro y hy
      have hy : y ≠ p.2 ∧ y ∉ l.map (·.2) := by simpa using hy
      rw [ho y hy.2, hset, if_neg hy.1]

/-! ## RUN (30_encoding.md R122) -/

/-- `RUN`: the command completes, and `WAIT` reads its STATUS into the name s and falls through. -/
theorem run_command {s : State} {i : Instr} {l : HostLabel} {rest : List HostInstr} (hi : Idle s)
    (hv : cellsWf 0 s.host.vars = true) (hc : code s = runProgram i l ++ rest) (hd : decode (encode i) = .ok i) :
    ∃ u t, exec i (accept (encode i) (s.withHost s.host.advance)) = .next u ∧ Runs s t ∧ Idle t ∧ code t = rest ∧
      t = { u with readData := t.readData, host := t.host } ∧
      t.host = { s.host with pc := t.host.pc, vars := t.host.vars } ∧ cellsWf 0 t.host.vars = true ∧
      ∀ y, y ≠ HostVar.s → t.host.get y = s.host.get y := by
  obtain ⟨u, hu⟩ := exec_next i (accept (encode i) (s.withHost s.host.advance))
  obtain ⟨hb, -⟩ := exec_completes hu
  obtain ⟨-, -, -, -, -, -, hm, -, -, -, hh, he⟩ := exec_frame hu
  have hh : u.host = s.host.advance := hh
  have hiu : Idle u := ⟨he.trans hi.events, hb, by rw [hm]; exact hi.capacity⟩
  have h1 : step s = .next (accept (encode i) (s.withHost s.host.advance)) := by
    rw [step_wr hi hc rfl (by simpa [HostExpr.eval] using (encode i).isLt)]
    simp [HostExpr.eval, writeReg, writeCmd, State.withHost, hi.busy]
  have h2 : step (accept (encode i) (s.withHost s.host.advance)) = .next u := by
    rw [step_complete (s := accept (encode i) (s.withHost s.host.advance)) hi.events rfl, complete]
    simp only [accept_latch, hd]
    exact hu
  have hcu : code u = .label l :: .rd .status HostVar.s ::
      .ifGoto (.eq (.field (.var HostVar.s) 0 1) (.lit 1)) l :: rest :=
      code_step hc (by rw [hh]; rfl) (by rw [hh]; rfl)
  have h3 : Ran u (u.withHost u.host.advance) := ran_host hiu hcu rfl
  have hc3 := code_step (t := u.withHost u.host.advance) hcu rfl rfl
  obtain ⟨v, h4, hhv⟩ := ran_rd (h3.idle hiu) hc3 rfl
  have hc4 := code_step (t := v) hc3 (by rw [hhv]; rfl) (by rw [hhv]; rfl)
  have hwf : cellsWf 0 u.host.vars = true := by rw [hh]; exact hv
  have hset : ∀ y, v.host.get y = if y = HostVar.s then (regValue u .status).toNat else u.host.get y := fun y => by
    rw [hhv]; exact get_set hwf
  have h5 := ran_skip (h4.idle (h3.idle hiu)) hc4 (by
    have hs := statusWord_toNat u
    rw [hb] at hs
    simp only [HostCond.eval, HostExpr.eval, hset, if_pos, regValue, hs]
    simp
    omega)
  refine ⟨u, _, hu, (((h3.trans h4).trans h5).runs.head h2).head h1, ((h3.trans h4).trans h5).idle hiu, code_step hc4 rfl rfl,
    ((h3.trans h4).trans h5).same, ?_, ?_, ?_⟩
  · change v.host.advance = _
    rw [hhv, show (u.withHost u.host.advance).host = u.host.advance from rfl, hh]
    rfl
  · change cellsWf 0 v.host.vars = true
    rw [hhv]; exact varsWf_set hwf
  · intro y hy
    change v.host.get y = _
    rw [hset, if_neg hy, hh]
    rfl

/-! ## The next access (44_host_sprite_reader.md R237) -/

theorem isAccess_iff {op : HostInstr} : op.isAccess = true ↔ ∃ r, (∃ e, op = .wr r e) ∨ ∃ x, op = .rd r x := by
  cases op <;> simp [HostInstr.isAccess]

theorem atAccess_iff {c : HostCtx} : c.atAccess ↔ ∃ op, c.program[c.pc]? = some op ∧ op.isAccess = true := by
  constructor
  · rintro ⟨r, ⟨e, h⟩ | ⟨x, h⟩⟩ <;> exact ⟨_, h, rfl⟩
  · rintro ⟨op, h, ha⟩
    obtain ⟨r, ⟨e, rfl⟩ | ⟨x, rfl⟩⟩ := isAccess_iff.1 ha
    · exact ⟨r, .inl ⟨e, h⟩⟩
    · exact ⟨r, .inr ⟨x, h⟩⟩

/-- What the bounded search for the next access finds. -/
theorem accessWithin_iff {m : Nat} {c : HostCtx} : c.accessWithin m = true ↔ ∃ n < m, ∃ d, c.leadsTo n d ∧ d.atAccess := by
  induction m generalizing c with
  | zero => simp [HostCtx.accessWithin]
  | succ m ih =>
    simp only [HostCtx.accessWithin]
    constructor
    · intro h
      split at h
      · cases h
      · rename_i op hop
        cases ha : op.isAccess
        · rw [ha, Bool.false_or] at h
          split at h
          · rename_i e he
            obtain ⟨n, hn, d, hd, hx⟩ := ih.1 h
            exact ⟨n + 1, by omega, d, ⟨op, e, hop, ha, he, hd⟩, hx⟩
          · cases h
        · exact ⟨0, by omega, c, rfl, atAccess_iff.2 ⟨op, hop, ha⟩⟩
    · rintro ⟨_ | n, hn, d, hd, hx⟩
      · cases hd
        obtain ⟨op, hop, ha⟩ := atAccess_iff.1 hx
        simp [hop, ha]
      · obtain ⟨op, e, hop, ha, he, hd⟩ := hd
        simp only [hop, ha, he, Bool.false_or]
        exact ih.2 ⟨n, by omega, d, hd, hx⟩

/-- The stretch without an access from `c` on is over before `n` actions have been made. -/
def HostCtx.settles : Nat → HostCtx → Prop
  | 0, _ => False
  | n + 1, c => ∀ op, c.program[c.pc]? = some op → op.isAccess = false → ∀ e, c.proceed op = .ok e → e.settles n

/-- A stretch of own actions does not outlast its bound. -/
theorem leadsTo_lt_of_settles {m n : Nat} {c d : HostCtx} (hs : c.settles m) (hl : c.leadsTo n d) : n < m := by
  induction m generalizing c n with
  | zero => exact hs.elim
  | succ m ih =>
    cases n with
    | zero => omega
    | succ n =>
      obtain ⟨op, e, hop, hna, he, hl⟩ := hl
      have := ih (hs op hop hna e he) hl
      omega

theorem settles_mono {m n : Nat} {c : HostCtx} (h : c.settles m) (hmn : m ≤ n) : c.settles n := by
  induction m generalizing c n with
  | zero => exact h.elim
  | succ m ih =>
    cases n with
    | zero => omega
    | succ n => exact fun op ho ha e he => ih (h op ho ha e he) (by omega)

end Sys2Proof.Machine
end

