-- ==== Sys2Proof/Laws/PerInstr.lean ====
section
/-! SUPPORT. One statement per command, about its word: the family EncodeFields of LAWS.json. -/

namespace Sys2Proof.Laws

/-- OP of a command (spec/30_encoding.md R114). -/
def opOf : Instr → BitVec 4
  | .nop => 0x0
  | .pload => 0x1
  | .pclr => 0x2
  | .tunpk => 0x3
  | .asm _ _ => 0x4
  | .phold _ _ => 0x5

/-- The W and H fields of a command (R114). -/
def gridOf : Instr → BitVec 8 × BitVec 8
  | .nop => (0, 0)
  | .pload => (0, 0)
  | .pclr => (0, 0)
  | .tunpk => (0, 0)
  | .asm w h => (w, h)
  | .phold w h => (w, h)

/-- The fields of a command's word are the command's, and its reserved fields are 0 (R111, R114, R120). -/
def EncodeFields.Statement (i : Instr) : Prop :=
  opField (encode i) = opOf i ∧ wField (encode i) = (gridOf i).1 ∧ hField (encode i) = (gridOf i).2 ∧
    rsv0Field (encode i) = 0 ∧ rsv1Field (encode i) = 0

theorem EncodeFields.nop : EncodeFields.Statement .nop := ⟨rfl, rfl, rfl, rfl, rfl⟩
theorem EncodeFields.pload : EncodeFields.Statement .pload := ⟨rfl, rfl, rfl, rfl, rfl⟩
theorem EncodeFields.pclr : EncodeFields.Statement .pclr := ⟨rfl, rfl, rfl, rfl, rfl⟩
theorem EncodeFields.tunpk : EncodeFields.Statement .tunpk := ⟨rfl, rfl, rfl, rfl, rfl⟩
theorem EncodeFields.asm (w h : BitVec 8) : EncodeFields.Statement (.asm w h) := by
  simp [EncodeFields.Statement, encode, opOf, gridOf]
theorem EncodeFields.phold (w h : BitVec 8) : EncodeFields.Statement (.phold w h) := by
  simp [EncodeFields.Statement, encode, opOf, gridOf]

end Sys2Proof.Laws
end

