-- ==== Sys2Proof/Laws/Search.lean ====
section
/-! SUPPORT. The pieces of a SEARCH's program (spec/44_host_sprite_reader.md R233): where its labels stand, and what each piece
does when no other input comes. -/

namespace Sys2Proof.Machine

/-! ## The pieces, each from its label to the program's end -/

namespace SearchCode

def done : List HostInstr := [.label lblDone]
def empty : List HostInstr := .label lblEmpty :: .clearResult :: .reportPalette statusErr :: done
def advance : List HostInstr :=
  .label lblStep :: .assign HostVar.i (.add (.var HostVar.i) (.lit 1)) :: .goto lblNext :: empty
def keep (w h : BitVec 8) : List HostInstr := .label lblKeep :: (readRecord (gridPixels w h) ++ .appendRecord :: advance)
def hold (w h : BitVec 8) : List HostInstr := .label lblHold :: (runProgram (.phold w h) lblWaitPhold ++ keep w h)
/-- After a sprite's two reads. -/
def judge (w h : BitVec 8) : List HostInstr :=
  .ifGoto (.eq statusErr (.lit 0)) lblKeep ::
  .ifGoto (.and (.eq statusErr (.lit 3)) (.eq (.var HostVar.e) (.lit 0))) lblHold ::
  .reportSprite (.var HostVar.i) statusErr (.var HostVar.e) :: .goto lblStep :: hold w h
def next (o : Nat) (w h : BitVec 8) (count : Nat) : List HostInstr :=
  .label lblNext :: .ifGoto (.eq (.var HostVar.i) (.lit count)) lblDone ::
  .wr .addr (.add (.lit o) (.mul (.var HostVar.i) (.var HostVar.len))) ::
  (runProgram (.asm w h) lblWaitAsm ++ .rd .status HostVar.s :: .rd .errInfo HostVar.e :: judge w h)
/-- After the palette load has succeeded. -/
def init (o : Nat) (w h : BitVec 8) (count : Nat) : List HostInstr :=
  .assign HostVar.len (.lit (gridBytes w h)) :: .assign HostVar.i (.lit 0) :: .clearResult :: next o w h count

end SearchCode

open SearchCode

variable {o : Nat} {w h : BitVec 8} {p count : Nat}

theorem searchProgram_eq : searchProgram o w h p count = searchPalette p ++ init o w h count := by
  simp [searchProgram, searchSprite, init, next, judge, hold, keep, advance, empty, done]

/-- A jump to a label goes on with the code that stands at it. -/
def Lands (l : HostLabel) (k prog : List HostInstr) : Prop := ∃ n, labelIndex l prog = some n ∧ prog.drop n = k

theorem lands_of_append {l : HostLabel} {pre suf prog : List HostInstr} (e : prog = pre ++ .label l :: suf)
    (hn : HostInstr.label l ∉ pre) : Lands l (.label l :: suf) prog :=
  ⟨pre.length, by rw [e, labelIndex_append hn], by rw [e]; simp⟩

/-- The program before the label `next`. -/
abbrev beforeNext (w h : BitVec 8) (p : Nat) : List HostInstr :=
  searchPalette p ++ [.assign HostVar.len (.lit (gridBytes w h)), .assign HostVar.i (.lit 0), .clearResult]

theorem lands_next : Lands lblNext (next o w h count) (searchProgram o w h p count) := by
  refine lands_of_append (pre := beforeNext w h p) ?_ ?_
  · simp [searchProgram_eq, init, next]
  · simp [searchPalette, runProgram, waitProgram, lblNext, lblWaitPload]

theorem lands_hold : Lands lblHold (hold w h) (searchProgram o w h p count) := by
  refine lands_of_append (pre := beforeNext w h p ++ searchSprite o w h count) ?_ ?_
  · simp [searchProgram_eq, init, next, judge, hold, searchSprite]
  · simp [searchPalette, searchSprite, runProgram, waitProgram, lblHold, lblNext, lblWaitPload, lblWaitAsm]

theorem lands_keep : Lands lblKeep (keep w h) (searchProgram o w h p count) := by
  refine lands_of_append (pre := beforeNext w h p ++ searchSprite o w h count
    ++ .label lblHold :: runProgram (.phold w h) lblWaitPhold) ?_ ?_
  · simp [searchProgram_eq, init, next, judge, hold, keep, searchSprite]
  · simp [searchPalette, searchSprite, runProgram, waitProgram, lblHold, lblNext, lblWaitPload, lblWaitAsm, lblKeep, lblWaitPhold]

/-- The poll of a `WAIT` and what follows it. -/
abbrev poll (l : HostLabel) (k : List HostInstr) : List HostInstr :=
  .label l :: .rd .status HostVar.s :: .ifGoto (.eq (.field (.var HostVar.s) 0 1) (.lit 1)) l :: k

theorem lands_waitPload : Lands lblWaitPload (poll lblWaitPload (.rd .status HostVar.s ::
    .ifGoto (.eq statusErr (.lit 2)) lblEmpty :: .ifGoto (.eq statusErr (.lit 4)) lblEmpty :: init o w h count))
    (searchProgram o w h p count) :=
  lands_of_append (pre := [.wr .addr (.lit p), .wr .cmd (.lit (encode .pload).toNat)])
    (by simp [searchProgram_eq, searchPalette, runProgram, waitProgram]) (by simp)

theorem lands_waitAsm : Lands lblWaitAsm (poll lblWaitAsm (.rd .status HostVar.s :: .rd .errInfo HostVar.e :: judge w h))
    (searchProgram o w h p count) := by
  refine lands_of_append (pre := beforeNext w h p ++ (next o w h count).take 4) ?_ ?_
  · simp [searchProgram_eq, init, next, runProgram, waitProgram]
  · simp [searchPalette, next, runProgram, waitProgram, lblNext, lblWaitPload, lblWaitAsm]

theorem lands_waitPhold : Lands lblWaitPhold (poll lblWaitPhold (keep w h)) (searchProgram o w h p count) := by
  refine lands_of_append (pre := beforeNext w h p ++ searchSprite o w h count
    ++ [.label lblHold, .wr .cmd (.lit (encode (.phold w h)).toNat)]) ?_ ?_
  · simp [searchProgram_eq, init, next, judge, hold, runProgram, waitProgram, searchSprite]
  · simp [searchPalette, searchSprite, runProgram, waitProgram, lblHold, lblNext, lblWaitPload, lblWaitAsm, lblWaitPhold]

/-- The program before the label `step`. -/
abbrev beforeStep (o : Nat) (w h : BitVec 8) (p count : Nat) : List HostInstr :=
  beforeNext w h p ++ searchSprite o w h count ++ .label lblHold :: runProgram (.phold w h) lblWaitPhold
    ++ .label lblKeep :: readRecord (gridPixels w h) ++ [.appendRecord]

theorem lands_step : Lands lblStep advance (searchProgram o w h p count) := by
  refine lands_of_append (pre := beforeStep o w h p count) ?_ ?_
  · simp [searchProgram_eq, init, next, judge, hold, keep, advance, searchSprite]
  · simp [searchPalette, searchSprite, runProgram, waitProgram, lblHold, lblNext, lblWaitPload, lblWaitAsm, lblKeep, lblWaitPhold,
      lblStep, readRecord]

theorem lands_empty : Lands lblEmpty empty (searchProgram o w h p count) := by
  refine lands_of_append (pre := beforeStep o w h p count ++ advance.take 3) ?_ ?_
  · simp [searchProgram_eq, init, next, judge, hold, keep, advance, empty, searchSprite]
  · simp [searchPalette, searchSprite, runProgram, waitProgram, lblHold, lblNext, lblWaitPload, lblWaitAsm, lblKeep, lblWaitPhold,
      lblStep, readRecord, advance, lblEmpty]

theorem lands_done : Lands lblDone done (searchProgram o w h p count) := by
  refine lands_of_append (pre := beforeStep o w h p count ++ advance.take 3 ++ empty.take 3) ?_ ?_
  · simp [searchProgram_eq, init, next, judge, hold, keep, advance, empty, done, searchSprite]
  · simp [searchPalette, searchSprite, runProgram, waitProgram, lblHold, lblNext, lblWaitPload, lblWaitAsm, lblKeep, lblWaitPhold,
      lblStep, readRecord, advance, empty, lblEmpty, lblDone]

/-! ## No long stretch without an access (R237) -/

/-- From every context of the SEARCH whose next actions are `k`, the next access or the end comes before `n` own actions. -/
def Settles (o : Nat) (w h : BitVec 8) (p count n : Nat) (k : List HostInstr) : Prop :=
  ∀ c : HostCtx, c.program = searchProgram o w h p count → c.program.drop c.pc = k → c.settles n

section
variable {o : Nat} {w h : BitVec 8} {p count m n : Nat} {op : HostInstr} {k k' : List HostInstr} {l : HostLabel}

theorem getElem_of_drop {α : Type} {l k : List α} {a : α} {n : Nat} (h : l.drop n = a :: k) : l[n]? = some a := by
  have := congrArg (·[0]?) h
  simpa using this

theorem drop_of_drop {α : Type} {l k : List α} {a : α} {n : Nat} (h : l.drop n = a :: k) : l.drop (n + 1) = k := by
  rw [← List.drop_drop, h]; rfl

theorem Settles.mono (s : Settles o w h p count m k) (hmn : m ≤ n) : Settles o w h p count n k :=
  fun c hp hk => settles_mono (s c hp hk) hmn

theorem Settles.nil : Settles o w h p count 1 [] := fun c _ hk op ho => by
  have := List.drop_eq_nil_iff.1 hk
  rw [List.getElem?_eq_none this] at ho
  cases ho

theorem Settles.access (ha : op.isAccess = true) : Settles o w h p count 1 (op :: k) := fun c _ hk op' ho hna => by
  rw [getElem_of_drop hk] at ho
  cases ho
  rw [ha] at hna
  cases hna

/-- An action that goes on with the next one. -/
theorem Settles.cons (s : Settles o w h p count n k)
    (hstep : ∀ c e : HostCtx, c.proceed op = .ok e → e.program = c.program ∧ e.pc = c.pc + 1) :
    Settles o w h p count (n + 1) (op :: k) := fun c hp hk op' ho _ e he => by
  rw [getElem_of_drop hk] at ho
  cases ho
  obtain ⟨h1, h2⟩ := hstep c e he
  exact s e (h1.trans hp) (by rw [h1, h2]; exact drop_of_drop hk)

theorem proceed_jump {c e : HostCtx} (he : c.jumpTo l = .ok e) (hp : c.program = searchProgram o w h p count)
    (hl : Lands l k' (searchProgram o w h p count)) : e.program = searchProgram o w h p count ∧ e.program.drop e.pc = k' := by
  obtain ⟨m, h1, h2⟩ := hl
  rw [HostCtx.jumpTo, hp, h1] at he
  cases he
  exact ⟨rfl, h2⟩

theorem Settles.goto (s : Settles o w h p count n k') (hl : Lands l k' (searchProgram o w h p count)) :
    Settles o w h p count (n + 1) (.goto l :: k) := fun c hp hk op' ho _ e he => by
  rw [getElem_of_drop hk] at ho
  cases ho
  obtain ⟨h1, h2⟩ := proceed_jump he hp hl
  exact s e h1 h2

theorem Settles.ifGoto {b : HostCond} (s : Settles o w h p count n k) (s' : Settles o w h p count n k')
    (hl : Lands l k' (searchProgram o w h p count)) : Settles o w h p count (n + 1) (.ifGoto b l :: k) := fun c hp hk op' ho _ e he => by
  rw [getElem_of_drop hk] at ho
  cases ho
  simp only [HostCtx.proceed] at he
  split at he
  · obtain ⟨h1, h2⟩ := proceed_jump he hp hl
    exact s' e h1 h2
  · cases he
    exact s _ hp (drop_of_drop hk)

/-- Every tail of the code settles. -/
def TailsSettle (o : Nat) (w h : BitVec 8) (p count n : Nat) : List HostInstr → Prop
  | [] => Settles o w h p count n []
  | op :: k => Settles o w h p count n (op :: k) ∧ TailsSettle o w h p count n k

theorem TailsSettle.drop (t : TailsSettle o w h p count n k) (i : Nat) : Settles o w h p count n (k.drop i) := by
  induction k generalizing i with
  | nil => rw [List.drop_nil]; exact t
  | cons op k ih =>
    cases i with
    | zero => exact t.1
    | succ i => exact ih t.2 i

theorem TailsSettle.accesses {l : List HostInstr} (t : TailsSettle o w h p count n k) (hn : 1 ≤ n)
    (hl : ∀ op ∈ l, op.isAccess = true) : TailsSettle o w h p count n (l ++ k) := by
  induction l with
  | nil => exact t
  | cons op l ih => exact ⟨(Settles.access (hl op (by simp))).mono hn, ih fun q hq => hl q (by simp [hq])⟩

theorem isAccess_readRecord (n : Nat) : ∀ op ∈ readRecord n, op.isAccess = true := by
  intro op hop
  simp only [readRecord, List.mem_append, List.mem_map] at hop
  rcases hop with (hop | ⟨i, -, rfl⟩) | ⟨i, -, rfl⟩
  · simp at hop; rcases hop with rfl | rfl | rfl | rfl <;> rfl
  · rfl
  · rfl

theorem proceed_ok {c e : HostCtx} (hd : c.proceed op = .ok e) (hj : (∀ b l, op ≠ .ifGoto b l) ∧ ∀ l, op ≠ .goto l) :
    e.program = c.program ∧ e.pc = c.pc + 1 := by
  cases op with
  | ifGoto b l => exact absurd rfl (hj.1 b l)
  | goto l => exact absurd rfl (hj.2 l)
  | _ => cases hd; exact ⟨rfl, rfl⟩

/-- An action that is no jump. -/
theorem Settles.plain (s : Settles o w h p count n k) (hj : (∀ b l, op ≠ .ifGoto b l) ∧ ∀ l, op ≠ .goto l) :
    Settles o w h p count (n + 1) (op :: k) := s.cons fun _ _ e => proceed_ok e hj

/-! The pieces, from the last. -/

theorem settles_done : Settles o w h p count 2 done := Settles.nil.plain (by simp)

theorem settles_next : Settles o w h p count 4 (next o w h count) :=
  (((Settles.access rfl).mono (by omega)).ifGoto settles_done lands_done).plain (by simp)

theorem settles_advance : Settles o w h p count 7 advance :=
  ((settles_next.goto lands_next).plain (by simp)).plain (by simp)

theorem settles_keep : Settles o w h p count 2 (keep w h) := (Settles.access rfl).plain (by simp)

theorem settles_hold : Settles o w h p count 2 (hold w h) := (Settles.access rfl).plain (by simp)

theorem settles_empty : Settles o w h p count 5 empty :=
  ((settles_done.plain (by simp)).plain (by simp)).plain (by simp)

theorem settles_poll : Settles o w h p count 2 (poll l k) := (Settles.access rfl).plain (by simp)

/-- From anywhere in a SEARCH, the next access or the end comes before eleven own actions have been made. -/
theorem tails_search : TailsSettle o w h p count 11 (searchProgram o w h p count) := by
  have t1 : TailsSettle o w h p count 11 (.appendRecord :: advance) :=
    ⟨(settles_advance.plain (by simp)).mono (by omega), settles_advance.mono (by omega),
      (((settles_next.goto lands_next).plain (by simp)).mono (by omega)), (settles_next.goto lands_next).mono (by omega),
      settles_empty.mono (by omega), ((settles_done.plain (by simp)).plain (by simp)).mono (by omega),
      (settles_done.plain (by simp)).mono (by omega), settles_done.mono (by omega), Settles.nil.mono (by omega)⟩
  have t2 : TailsSettle o w h p count 11 (keep w h) :=
    ⟨settles_keep.mono (by omega), t1.accesses (by omega) (isAccess_readRecord _)⟩
  have t3 : TailsSettle o w h p count 11 (hold w h) :=
    ⟨settles_hold.mono (by omega), (Settles.access rfl).mono (by omega), settles_poll.mono (by omega),
      (Settles.access rfl).mono (by omega), (settles_keep.ifGoto settles_poll lands_waitPhold).mono (by omega), t2⟩
  have j1 : Settles o w h p count 8 (.goto lblStep :: hold w h) := settles_advance.goto lands_step
  have j2 : Settles o w h p count 9 (.reportSprite (.var HostVar.i) statusErr (.var HostVar.e) :: .goto lblStep :: hold w h) :=
    j1.plain (by simp)
  have j3 : Settles o w h p count 10 (.ifGoto (.and (.eq statusErr (.lit 3)) (.eq (.var HostVar.e) (.lit 0))) lblHold ::
      .reportSprite (.var HostVar.i) statusErr (.var HostVar.e) :: .goto lblStep :: hold w h) :=
    j2.ifGoto (settles_hold.mono (by omega)) lands_hold
  have j4 : Settles o w h p count 11 (judge w h) := j3.ifGoto (settles_keep.mono (by omega)) lands_keep
  have t4 : TailsSettle o w h p count 11 (next o w h count) :=
    ⟨settles_next.mono (by omega),
      ((((Settles.access rfl).mono (by omega)).ifGoto settles_done lands_done : Settles o w h p count 3 _)).mono (by omega),
      (Settles.access rfl).mono (by omega), (Settles.access rfl).mono (by omega), settles_poll.mono (by omega),
      (Settles.access rfl).mono (by omega),
      ((((Settles.access rfl).mono (by omega)).ifGoto settles_poll lands_waitAsm : Settles o w h p count 3 _)).mono (by omega),
      (Settles.access rfl).mono (by omega), (Settles.access rfl).mono (by omega), j4, j3.mono (by omega), j2.mono (by omega),
      j1.mono (by omega), t3⟩
  have i1 : Settles o w h p count 7 (init o w h count) :=
    ((settles_next.plain (by simp)).plain (by simp)).plain (by simp)
  have i2 : Settles o w h p count 8 (.ifGoto (.eq statusErr (.lit 4)) lblEmpty :: init o w h count) :=
    i1.ifGoto (settles_empty.mono (by omega)) lands_empty
  rw [searchProgram_eq]
  exact ⟨(Settles.access rfl).mono (by omega), (Settles.access rfl).mono (by omega), settles_poll.mono (by omega),
    (Settles.access rfl).mono (by omega),
    ((((Settles.access rfl).mono (by omega)).ifGoto settles_poll lands_waitPload : Settles o w h p count 3 _)).mono (by omega),
    (Settles.access rfl).mono (by omega), (i2.ifGoto (settles_empty.mono (by omega)) lands_empty).mono (by omega),
    i2.mono (by omega), i1.mono (by omega), ((settles_next.plain (by simp)).plain (by simp)).mono (by omega),
    (settles_next.plain (by simp)).mono (by omega), t4⟩

theorem settles_search {c : HostCtx} (hp : c.program = searchProgram o w h p count) : c.settles 11 := by
  have := tails_search (o := o) (w := w) (h := h) (p := p) (count := count) |>.drop c.pc
  exact this c hp (by rw [hp])

/-- Whether a SEARCH has an access to come is known within 11 actions of its own. -/
theorem accessComes_iff {c : HostCtx} (hp : c.program = searchProgram o w h p count) :
    c.accessComes ↔ c.accessWithin 11 = true :=
  ⟨fun ⟨n, d, hl, ha⟩ => accessWithin_iff.2 ⟨n, leadsTo_lt_of_settles (settles_search hp) hl, d, hl, ha⟩,
    fun hw => let ⟨n, _, d, hl, ha⟩ := accessWithin_iff.1 hw; ⟨n, d, hl, ha⟩⟩

end

/-! ## Where a SEARCH stands -/

/-- What a SEARCH, issued in the state `s` with a palette at P that loads, has done when its next action is the first of the code
`k`: it has asked for `n` sprites, the name i holds `i`, and its result and reports are `rs` and `ps`. -/
structure SearchAt (s : State) (o : Nat) (w h : BitVec 8) (p count : Nat) (k : List HostInstr) (i n : Nat)
    (rs : List SpriteRecord) (ps : List HostReport) (t : State) : Prop where
  idle : Idle t
  src : t.src = s.src
  srcEn : t.srcEn = s.srcEn
  srcLen : t.srcLen = s.srcLen
  cap : t.fbMaxPixels = s.fbMaxPixels
  palCount : t.palCount = 16#5
  palOff : t.palOff = BitVec.ofNat 32 p
  pal : ∀ j : Fin 16, t.pal[j] = col15 (srcRead16 s (p + 2 * j.val))
  program : t.host.program = searchProgram o w h p count
  vars : cellsWf 0 t.host.vars = true
  next : code t = k
  index : t.host.get HostVar.i = i
  bytes : t.host.get HostVar.len = gridBytes w h
  requests : t.requests = s.requests ++ ⟨BitVec.ofNat 32 p, 32⟩ ::
    if s.fbMaxPixels < gridPixels w h then []
    else (List.range n).map fun k => ⟨BitVec.ofNat 32 (o + k * gridBytes w h), gridBytes w h⟩
  result : t.host.result = rs
  reports : t.host.reports = ps

variable {s t u : State} {k k' : List HostInstr} {i n : Nat} {rs : List SpriteRecord} {ps : List HostReport}

/-- Host business that keeps the names and the lists. -/
theorem SearchAt.ran (a : SearchAt s o w h p count k i n rs ps t) (r : Ran t u)
    (hh : u.host = { t.host with pc := u.host.pc }) (hk : code u = k') : SearchAt s o w h p count k' i n rs ps u := by
  have e := r.same
  exact ⟨r.idle a.idle, by rw [e]; exact a.src, by rw [e]; exact a.srcEn, by rw [e]; exact a.srcLen, by rw [e]; exact a.cap,
    by rw [e]; exact a.palCount, by rw [e]; exact a.palOff, fun j => by rw [e]; exact a.pal j, by rw [hh]; exact a.program,
    by rw [hh]; exact a.vars, hk, by rw [hh]; exact a.index, by rw [hh]; exact a.bytes, by rw [e]; exact a.requests,
    by rw [hh]; exact a.result, by rw [hh]; exact a.reports⟩

theorem SearchAt.skip {c : HostCond} {l : HostLabel} (a : SearchAt s o w h p count (.ifGoto c l :: k) i n rs ps t)
    (hf : c.eval t.host = false) :
    ∃ u, Ran t u ∧ u.host = { t.host with pc := u.host.pc } ∧ SearchAt s o w h p count k i n rs ps u :=
  have r := ran_skip a.idle a.next hf
  ⟨_, r, rfl, a.ran r rfl (code_step a.next rfl rfl)⟩

theorem SearchAt.label {l : HostLabel} (a : SearchAt s o w h p count (.label l :: k) i n rs ps t) :
    ∃ u, Ran t u ∧ u.host = { t.host with pc := u.host.pc } ∧ SearchAt s o w h p count k i n rs ps u :=
  have r : Ran t (t.withHost t.host.advance) := ran_host a.idle a.next rfl
  ⟨_, r, rfl, a.ran r rfl (code_step a.next rfl rfl)⟩

theorem SearchAt.jump {c : HostCond} {l : HostLabel} (a : SearchAt s o w h p count (.ifGoto c l :: k) i n rs ps t)
    (ht : c.eval t.host = true) (hl : Lands l k' (searchProgram o w h p count)) :
    ∃ u, Ran t u ∧ u.host = { t.host with pc := u.host.pc } ∧ SearchAt s o w h p count k' i n rs ps u := by
  obtain ⟨m, h1, h2⟩ := hl
  have r := ran_jump a.idle a.next ht (by rw [a.program]; exact h1)
  exact ⟨_, r, rfl, a.ran r rfl (by change t.host.program.drop m = _; rw [a.program]; exact h2)⟩

theorem SearchAt.goto {l : HostLabel} (a : SearchAt s o w h p count (.goto l :: k) i n rs ps t)
    (hl : Lands l k' (searchProgram o w h p count)) :
    ∃ u, Ran t u ∧ u.host = { t.host with pc := u.host.pc } ∧ SearchAt s o w h p count k' i n rs ps u := by
  obtain ⟨m, h1, h2⟩ := hl
  have r := ran_goto a.idle a.next (by rw [a.program]; exact h1)
  exact ⟨_, r, rfl, a.ran r rfl (by change t.host.program.drop m = _; rw [a.program]; exact h2)⟩

/-! ## Reading STATUS.ERR -/

/-- `s.ERR`, when the name s holds the status word of a state. -/
theorem eval_statusErr {c : HostCtx} (hg : c.get HostVar.s = (statusWord t).toNat) : statusErr.eval c = t.err.toNat := by
  have hs := statusWord_toNat t
  have := t.err.isLt
  have := t.busy.toNat_lt
  have := t.done.toNat_lt
  have := t.ovr.toNat_lt
  simp only [HostExpr.eval, statusErr, hg, hs, Nat.shiftRight_eq_div_pow]
  omega

theorem eval_errIs {c : HostCtx} (x : Nat) (hg : c.get HostVar.s = (statusWord t).toNat) :
    HostCond.eval c (.eq statusErr (.lit x)) = decide (t.err.toNat = x) := by
  rw [HostCond.eval, eval_statusErr hg]
  rfl

/-! ## One sprite -/

/-- An image of kind `kind` whose pixel words are `px` stands in the frame buffer. -/
structure ImageIs (w h : BitVec 8) (off : Word) (kind : BitVec 2) (px : List Word) (t : State) : Prop where
  kind : t.fbKind = kind
  width : t.fbGridW = w
  height : t.fbGridH = h
  off : t.fbOff = off
  size : imagePixels t = gridPixels w h
  pixels : (List.range (gridPixels w h)).map (fun k => rgbWord (fbEntry t k)) = px

theorem ImageIs.writeImage {kind : BitVec 2} {l : List Rgb} (hl : l.length = gridPixels w h) :
    ImageIs w h t.latch.addr kind (l.map rgbWord) (succeed (writeImage kind w h l t)) := by
  refine ⟨rfl, rfl, rfl, rfl, imagePixels_writeImage kind w h l t, List.ext_getElem (by simp [hl]) fun k h1 h2 => ?_⟩
  have hk : k < l.length := by simpa using h2
  simp [fbEntry_writeImage, hk]

/-- The reads of a record, as pairs of a register and the name its value goes to. -/
def recordReads (n : Nat) : List (Reg × HostVar) :=
  [(.fbOff, HostVar.fbOff), (.fbGrid, HostVar.fbGrid), (.palOff, HostVar.palOff), (.fbKind, HostVar.fbKind)]
  ++ (List.finRange 16).map (fun i => (.pal i, HostVar.pal i.val)) ++ (List.range n).map (fun k => (.fb k, HostVar.fb k))

theorem readRecord_eq (n : Nat) : readRecord n = (recordReads n).map fun p => .rd p.1 p.2 := by
  simp [readRecord, recordReads, Config.paletteSize, Function.comp_def]

/-- The names of a record are 4 to 7, 16 to 31, and 32 on. -/
theorem recordReads_names (n : Nat) : (recordReads n).map (·.2) =
    [4, 5, 6, 7, 16, 17, 18, 19, 20, 21, 22, 23, 24, 25, 26, 27, 28, 29, 30, 31] ++ (List.range n).map (32 + ·) := by
  rw [recordReads, List.map_append, List.map_append]
  congr 1
  simp [Function.comp_def, HostVar.fb]

theorem recordReads_nodup (n : Nat) : ((recordReads n).map (·.2)).Nodup := by
  rw [recordReads_names, List.nodup_append]
  refine ⟨by decide, List.nodup_range.map fun a b h => by simpa using h, fun a ha b hb => ?_⟩
  obtain ⟨k, -, rfl⟩ := List.mem_map.1 hb
  have h : ∀ x ∈ [4, 5, 6, 7, 16, 17, 18, 19, 20, 21, 22, 23, 24, 25, 26, 27, 28, 29, 30, 31], x < 32 := by decide
  exact Nat.ne_of_lt (Nat.lt_of_lt_of_le (h a ha) (Nat.le_add_right 32 k))

theorem not_recordReads {n x : Nat} (hx : x < 4) : x ∉ (recordReads n).map (·.2) := by
  rw [recordReads_names]
  have h : ∀ y ∈ [4, 5, 6, 7, 16, 17, 18, 19, 20, 21, 22, 23, 24, 25, 26, 27, 28, 29, 30, 31], 4 ≤ y := by decide
  intro hm
  rcases List.mem_append.1 hm with hm | hm
  · exact absurd (h x hm) (by omega)
  · obtain ⟨k, -, e⟩ := List.mem_map.1 hm
    have e : 32 + k = x := e
    omega

/-- `keep`: the record of the image that stands in the frame buffer goes to the result. -/
theorem SearchAt.keep {kind : BitVec 2} {px : List Word}
    (a : SearchAt s o w h p count (keep w h) i n rs ps t) (hfit : gridPixels w h ≤ s.fbMaxPixels)
    (im : ImageIs w h (BitVec.ofNat 32 (o + i * gridBytes w h)) kind px t) :
    ∃ u, Runs t u ∧ SearchAt s o w h p count advance i n (rs ++ [spriteRecord s o w h p i (kind.setWidth 32) px]) ps u := by
  obtain ⟨t1, r1, h1, a1⟩ := a.label
  rw [readRecord_eq] at a1
  obtain ⟨v, r2, hc, hh, hv, hg, ho⟩ := ran_reads a1.idle a1.vars a1.next (fun q hq => by
    simp only [recordReads, List.mem_append, List.mem_map, List.mem_range] at hq
    rcases hq with (hq | ⟨j, -, rfl⟩) | ⟨k, hk, rfl⟩
    · simp at hq; rcases hq with rfl | rfl | rfl | rfl <;> rfl
    · rfl
    · exact decide_eq_true (by rw [a1.cap]; omega)) (recordReads_nodup _)
  have e1 : t1 = { t with readData := t1.readData, host := t1.host } := r1.same
  have hrv : regValue t1 = regValue t := by funext r; rw [e1]; cases r <;> rfl
  have word : ∀ r x, (r, x) ∈ recordReads (gridPixels w h) → v.host.word x = regValue t r := fun r x hm => by
    rw [HostCtx.word, hg _ hm, hrv]; simp
  have grid : v.host.word HostVar.fbGrid = 0#16 ++ h ++ w := by
    rw [word .fbGrid _ (by simp [recordReads])]; simp [regValue, im.width, im.height]
  have size : v.host.recordPixels = gridPixels w h := by
    have := h.isLt
    have := w.isLt
    rw [HostCtx.recordPixels, grid]
    congr 1 <;> refine BitVec.eq_of_toNat_eq ?_
    · simp
      rw [toNat_append_mul]; simp; omega
    · simp
      rw [toNat_append_mul, toNat_append_mul]; simp [Nat.shiftRight_eq_div_pow]; omega
  have record : v.host.record = spriteRecord s o w h p i (kind.setWidth 32) px := by
    rw [HostCtx.record, grid, size, word .fbOff _ (by simp [recordReads]), word .palOff _ (by simp [recordReads]),
      word .fbKind _ (by simp [recordReads])]
    simp only [regValue, a.palOff, im.off, im.kind, spriteRecord, SpriteRecord.mk.injEq, true_and]
    refine ⟨List.map_congr_left fun j hj => ?_, ?_⟩
    · have hj : j < 16 := List.mem_range.1 hj
      rw [word (.pal ⟨j, hj⟩) _ (by simp [recordReads])]
      simp only [regValue, a.palCount, if_true]
      exact congrArg rgbWord (a.pal ⟨j, hj⟩)
    · rw [← im.pixels]
      refine List.map_congr_left fun k hk => ?_
      have hk := List.mem_range.1 hk
      rw [word (.fb k) _ (by simp [recordReads, hk])]
      simp only [regValue, im.size, if_pos hk]
  have r12 := r1.trans r2
  have r3 : Ran v (v.withHost { v.host.advance with result := v.host.result ++ [v.host.record] }) :=
    ran_host (r12.idle a.idle) hc rfl
  have r := r12.trans r3
  have e := r.same
  refine ⟨_, r.runs, r.idle a.idle, by rw [e]; exact a.src, by rw [e]; exact a.srcEn, by rw [e]; exact a.srcLen,
    by rw [e]; exact a.cap, by rw [e]; exact a.palCount, by rw [e]; exact a.palOff, fun j => by rw [e]; exact a.pal j, ?_, hv,
    code_step hc rfl rfl, ?_, ?_, by rw [e]; exact a.requests, ?_, ?_⟩
  · change v.host.program = _; rw [hh]; exact a1.program
  · exact (ho HostVar.i (not_recordReads (by decide))).trans a1.index
  · exact (ho HostVar.len (not_recordReads (by decide))).trans a1.bytes
  · change v.host.result ++ [v.host.record] = _; rw [record, hh]; exact congrArg (· ++ _) a1.result
  · change v.host.reports = _; rw [hh]; exact a1.reports

/-- `step`: on to the next sprite. -/
theorem SearchAt.advance (a : SearchAt s o w h p count advance i n rs ps t) :
    ∃ u, Runs t u ∧ SearchAt s o w h p count (SearchCode.next o w h count) (i + 1) n rs ps u := by
  obtain ⟨t1, r1, h1, a1⟩ := a.label
  have r2 : Ran t1 (t1.withHost ((t1.host.set HostVar.i (t1.host.get HostVar.i + 1)).advance)) := ran_host a1.idle a1.next rfl
  have e := r2.same
  have hs : ∀ y, (t1.host.set HostVar.i (t1.host.get HostVar.i + 1)).get y =
      if y = HostVar.i then t1.host.get HostVar.i + 1 else t1.host.get y := fun y => get_set a1.vars
  have a2 : SearchAt s o w h p count _ (i + 1) n rs ps
      (t1.withHost ((t1.host.set HostVar.i (t1.host.get HostVar.i + 1)).advance)) :=
    ⟨r2.idle a1.idle, a1.src, a1.srcEn, a1.srcLen, a1.cap, a1.palCount, a1.palOff, a1.pal, a1.program, varsWf_set a1.vars,
      code_step a1.next rfl rfl, (hs _).trans (by rw [if_pos rfl, a1.index]), (hs _).trans ((if_neg (by decide)).trans a1.bytes),
      a1.requests, a1.result, a1.reports⟩
  obtain ⟨u, r3, -, a3⟩ := a2.goto lands_next
  exact ⟨u, ((r1.trans r2).trans r3).runs, a3⟩

/-- A failed sprite whose failure is not "no data" is reported. -/
theorem SearchAt.report (a : SearchAt s o w h p count (judge w h) i n rs ps t)
    (hs : t.host.get HostVar.s = (statusWord t).toNat) (he : t.host.get HostVar.e = t.errInfo.toNat)
    (h0 : t.err.toNat ≠ 0) (h3 : ¬ (t.err.toNat = 3 ∧ t.errInfo.toNat = 0)) :
    ∃ u, Runs t u ∧ SearchAt s o w h p count SearchCode.advance i n rs (ps ++ [.sprite i t.err.toNat t.errInfo.toNat]) u := by
  obtain ⟨t1, r1, h1, a1⟩ := a.skip (by rw [eval_errIs 0 hs]; exact decide_eq_false h0)
  have hs1 : t1.host.get HostVar.s = (statusWord t).toNat := by rw [h1]; exact hs
  have he1 : t1.host.get HostVar.e = t.errInfo.toNat := by rw [h1]; exact he
  obtain ⟨t2, r2, h2, a2⟩ := a1.skip (by
    change (HostCond.eval t1.host (.eq statusErr (.lit 3)) && decide (t1.host.get HostVar.e = 0)) = false
    rw [eval_errIs 3 hs1, he1]
    simpa using h3)
  have hs2 : t2.host.get HostVar.s = (statusWord t).toNat := by rw [h2]; exact hs1
  have he2 : t2.host.get HostVar.e = t.errInfo.toNat := by rw [h2]; exact he1
  have r3 : Ran t2 (t2.withHost { t2.host.advance with reports := t2.host.reports ++
      [.sprite (t2.host.get HostVar.i) (statusErr.eval t2.host) (t2.host.get HostVar.e)] }) := ran_host a2.idle a2.next rfl
  have a3 : SearchAt s o w h p count _ i n rs (ps ++ [.sprite i t.err.toNat t.errInfo.toNat])
      (t2.withHost { t2.host.advance with reports := t2.host.reports ++
        [.sprite (t2.host.get HostVar.i) (statusErr.eval t2.host) (t2.host.get HostVar.e)] }) :=
    ⟨r3.idle a2.idle, a2.src, a2.srcEn, a2.srcLen, a2.cap, a2.palCount, a2.palOff, a2.pal, a2.program, a2.vars,
      code_step a2.next rfl rfl, a2.index, a2.bytes, a2.requests, a2.result, by
        change t2.host.reports ++ _ = _
        rw [a2.reports, a2.index, eval_statusErr hs2, he2]⟩
  obtain ⟨u, r4, -, a4⟩ := a3.goto lands_step
  exact ⟨u, (((r1.trans r2).trans r3).trans r4).runs, a4⟩

/-- `RUN` on the way: the block is the completion's, and the host's names and lists are kept. -/
theorem SearchAt.command {i' : Instr} {l : HostLabel} (a : SearchAt s o w h p count (runProgram i' l ++ k) i n rs ps t)
    (hd : decode (encode i') = .ok i') :
    ∃ u v, exec i' (accept (encode i') (t.withHost t.host.advance)) = .next u ∧ Runs t v ∧ Idle v ∧ code v = k ∧
      v = { u with readData := v.readData, host := v.host } ∧ v.src = s.src ∧ v.srcEn = s.srcEn ∧ v.srcLen = s.srcLen ∧
      v.fbMaxPixels = s.fbMaxPixels ∧ v.host.program = searchProgram o w h p count ∧ cellsWf 0 v.host.vars = true ∧
      v.host.get HostVar.i = i ∧ v.host.get HostVar.len = gridBytes w h ∧ v.host.result = rs ∧ v.host.reports = ps := by
  obtain ⟨u, v, hu, r, hv, hc, e, eh, hw, hg⟩ := run_command a.idle a.vars a.next hd
  obtain ⟨f1, -, -, -, f5, -, f7, f8, -⟩ := exec_frame hu
  exact ⟨u, v, hu, r, hv, hc, e, by rw [e]; exact f8.trans a.src, by rw [e]; exact f1.trans a.srcEn,
    by rw [e]; exact f5.trans a.srcLen, by rw [e]; exact f7.trans a.cap, by rw [eh]; exact a.program, hw,
    (hg _ (by decide)).trans a.index, (hg _ (by decide)).trans a.bytes, by rw [eh]; exact a.result, by rw [eh]; exact a.reports⟩

/-- `hold`: the placeholder of a sprite whose data did not come. -/
theorem SearchAt.hold (a : SearchAt s o w h p count (SearchCode.hold w h) i n rs ps t) (hd : decode (encode (.phold w h)) = .ok (.phold w h))
    (hfit : gridPixels w h ≤ s.fbMaxPixels) :
    ∃ u, Runs t u ∧ SearchAt s o w h p count (SearchCode.keep w h) i n rs ps u ∧
      ImageIs w h t.addr 2 (List.replicate (gridPixels w h) 0x00AAAAAA#32) u := by
  obtain ⟨t1, r1, -, a1⟩ := a.label
  obtain ⟨u, v, hu, r, hi, hc, e, h1, h2, h3, h4, h5, h6, h7, h8, h9, h10⟩ := a1.command hd
  have hu : u = placeholder w h (accept (encode (.phold w h)) (t1.withHost t1.host.advance)) := by
    have hu : execPhold w h _ = .next u := hu
    rw [execPhold, withCapacity_fits (by exact (a1.cap ▸ hfit : gridPixels w h ≤ t1.fbMaxPixels))] at hu
    exact (Host.Outcome.next.inj hu).symm
  subst hu
  have im := ImageIs.writeImage (w := w) (h := h) (kind := 2) (l := placeholderImage w h)
    (t := accept (encode (.phold w h)) (t1.withHost t1.host.advance)) (by simp)
  have ht : t1.addr = t.addr := by rw [r1.same]
  refine ⟨v, r1.runs.trans r, ⟨hi, h1, h2, h3, h4, by rw [e]; exact a1.palCount, by rw [e]; exact a1.palOff,
    fun j => by rw [e]; exact a1.pal j, h5, h6, hc, h7, h8, by rw [e]; exact a1.requests, h9, h10⟩, ?_⟩
  rw [e, ← ht]
  refine ⟨im.kind, im.width, im.height, im.off, im.size, im.pixels.trans ?_⟩
  rw [placeholderImage, List.map_replicate]
  rfl

/-- How the ASM of sprite i ended: no room, too few bytes, or the decoded image. -/
inductive SpriteTried (s : State) (o : Nat) (w h : BitVec 8) (p i : Nat) (t : State) : Prop where
  | tooLarge (hc : s.fbMaxPixels < gridPixels w h) (he : t.err = 6#4) (hn : t.errInfo.toNat = gridPixels w h)
  | short (hc : gridPixels w h ≤ s.fbMaxPixels) (hs : spriteAvail s o w h i < gridBytes w h) (he : t.err = 3#4)
      (hn : t.errInfo.toNat = spriteAvail s o w h i)
  | decoded (hc : gridPixels w h ≤ s.fbMaxPixels) (hs : spriteAvail s o w h i = gridBytes w h) (he : t.err = 0#4)
      (im : ImageIs w h (BitVec.ofNat 32 (o + i * gridBytes w h)) 1 (spritePixels s o w h p i) t)

theorem srcRead_of_src (e : t.src = s.src) : srcRead t = srcRead s := by funext a; rw [srcRead, srcRead, e]

/-- The pixels ASM decodes for sprite i, under the palette at P. -/
theorem decodedImage_words {a : State} (hp : ∀ j : Fin 16, a.pal[j] = col15 (srcRead16 s (p + 2 * j.val))) (hs : a.src = s.src)
    (ha : a.latch.addr.toNat = o + i * gridBytes w h) : (decodedImage a w h).map rgbWord = spritePixels s o w h p i := by
  rw [decodedImage, spritePixels, List.map_map, ha, srcRead_of_src hs]
  exact List.map_congr_left fun x _ => congrArg rgbWord (hp ⟨x.toNat, x.isLt⟩)

/-- `next`: ADDR, the ASM of sprite i, and its two reads. -/
theorem SearchAt.attempt (a : SearchAt s o w h p count (SearchCode.next o w h count) i i rs ps t)
    (hd : decode (encode (.asm w h)) = .ok (.asm w h)) (hen : s.srcEn = true) (hi : i ≠ count)
    (hr : o + i * gridBytes w h < 2 ^ 32) :
    ∃ u, Runs t u ∧ SearchAt s o w h p count (judge w h) i (i + 1) rs ps u ∧ u.host.get HostVar.s = (statusWord u).toNat ∧
      u.host.get HostVar.e = u.errInfo.toNat ∧ u.addr = BitVec.ofNat 32 (o + i * gridBytes w h) ∧ SpriteTried s o w h p i u := by
  obtain ⟨t1, r1, -, a1⟩ := a.label
  obtain ⟨t2, r2, -, a2⟩ := a1.skip (by
    simp only [HostCond.eval, HostExpr.eval, a1.index]; exact decide_eq_false hi)
  have hv : HostExpr.eval t2.host (.add (.lit o) (.mul (.var HostVar.i) (.var HostVar.len))) = o + i * gridBytes w h := by
    simp only [HostExpr.eval, a2.index, a2.bytes]
  have h3 := step_wr a2.idle a2.next rfl (by rw [hv]; exact hr)
  rw [hv] at h3
  have a3 : SearchAt s o w h p count _ i i rs ps
      (writeReg .addr (BitVec.ofNat 32 (o + i * gridBytes w h)) (t2.withHost t2.host.advance)) :=
    ⟨⟨a2.idle.events, a2.idle.busy, a2.idle.capacity⟩, a2.src, a2.srcEn, a2.srcLen, a2.cap, a2.palCount, a2.palOff, a2.pal,
      a2.program, a2.vars, code_step a2.next rfl rfl, a2.index, a2.bytes, a2.requests, a2.result, a2.reports⟩
  generalize ht3 : writeReg .addr _ _ = t3 at h3 a3
  have addr3 : t3.addr = BitVec.ofNat 32 (o + i * gridBytes w h) := by rw [← ht3]; rfl
  obtain ⟨c, t4, hc, r4, i4, k4, e4, h1, h2, h3', h4, h5, h6, h7, h8, h9, h10⟩ := a3.command hd
  generalize ha : accept _ _ = b at hc
  have bsrc : b.src = s.src := by rw [← ha]; exact a3.src
  have bcap : b.fbMaxPixels = s.fbMaxPixels := by rw [← ha]; exact a3.cap
  have bcount : b.palCount = 16#5 := by rw [← ha]; exact a3.palCount
  have boff : b.palOff = BitVec.ofNat 32 p := by rw [← ha]; exact a3.palOff
  have bpal : ∀ j : Fin 16, b.pal[j] = col15 (srcRead16 s (p + 2 * j.val)) := fun j => by rw [← ha]; exact a3.pal j
  have breq : b.requests = t3.requests := by rw [← ha]; rfl
  have baddr : b.latch.addr = BitVec.ofNat 32 (o + i * gridBytes w h) := by rw [← ha]; exact addr3
  have bnat : b.latch.addr.toNat = o + i * gridBytes w h := by
    rw [baddr, BitVec.toNat_ofNat]; exact Nat.mod_eq_of_lt hr
  have bav : latchAvail b (gridBytes w h) = spriteAvail s o w h i := by
    rw [latchAvail, spriteAvail, bnat, ← ha]; exact congrArg (fun x : Word => avail x.toNat _ _) a3.srcLen
  have ben : b.latch.srcEn = true := by rw [← ha]; exact a3.srcEn.trans hen
  -- the two reads
  obtain ⟨u, r5, k5, eh, hw, hg, ho⟩ := ran_reads (l := [(.status, HostVar.s), (.errInfo, HostVar.e)]) i4 h6 k4
    (by simp [regExists]) (by decide)
  have eu : u = { c with readData := u.readData, host := u.host } := by rw [r5.same, e4]
  have gs : u.host.get HostVar.s = (statusWord u).toNat := by rw [r5.same]; exact hg (.status, HostVar.s) (by simp)
  have ge : u.host.get HostVar.e = u.errInfo.toNat := by rw [r5.same]; exact hg (.errInfo, HostVar.e) (by simp)
  have fin : ∀ _ : c.palCount = 16#5 ∧ c.palOff = BitVec.ofNat 32 p ∧ c.pal = b.pal, c.requests = s.requests ++
      ⟨BitVec.ofNat 32 p, 32⟩ :: (if s.fbMaxPixels < gridPixels w h then []
        else (List.range (i + 1)).map fun k => ⟨BitVec.ofNat 32 (o + k * gridBytes w h), gridBytes w h⟩) →
      SpriteTried s o w h p i u → c.addr = t3.addr → ∃ u, Runs t u ∧ SearchAt s o w h p count (judge w h) i (i + 1) rs ps u ∧
        u.host.get HostVar.s = (statusWord u).toNat ∧ u.host.get HostVar.e = u.errInfo.toNat ∧
        u.addr = BitVec.ofNat 32 (o + i * gridBytes w h) ∧ SpriteTried s o w h p i u := by
    intro hp hq ht hadr
    refine ⟨u, (r1.trans r2).runs.trans ((r4.trans r5.runs).head h3), ⟨r5.idle i4, by rw [r5.same]; exact h1,
      by rw [r5.same]; exact h2, by rw [r5.same]; exact h3', by rw [r5.same]; exact h4, by rw [eu]; exact hp.1,
      by rw [eu]; exact hp.2.1, fun j => by rw [eu]; change c.pal[j] = _; rw [hp.2.2]; exact bpal j, by rw [eh]; exact h5, hw, k5,
      (ho _ (by decide)).trans h7, (ho _ (by decide)).trans h8, by rw [eu]; exact hq, by rw [eh]; exact h9,
      by rw [eh]; exact h10⟩, gs, ge, by rw [eu]; exact hadr.trans addr3, ht⟩
  have asked : ¬ s.fbMaxPixels < gridPixels w h → b.requests ++ [⟨b.latch.addr, gridBytes w h⟩] = s.requests ++
      ⟨BitVec.ofNat 32 p, 32⟩ :: (if s.fbMaxPixels < gridPixels w h then []
        else (List.range (i + 1)).map fun k => ⟨BitVec.ofNat 32 (o + k * gridBytes w h), gridBytes w h⟩) := fun hcap => by
    rw [breq, a3.requests, if_neg hcap, if_neg hcap, List.range_succ, baddr]; simp
  have hadr : c.addr = t3.addr := by
    obtain ⟨-, -, -, f, -⟩ := exec_frame hc
    rw [f, ← ha]; rfl
  have hc : execAsm w h b = .next c := hc
  rw [execAsm] at hc
  by_cases hcap : s.fbMaxPixels < gridPixels w h
  · rw [withCapacity_tooLarge (by rw [bcap]; exact hcap)] at hc
    cases hc
    refine fin ⟨bcount, boff, rfl⟩ ?_ (.tooLarge hcap ?_ ?_) hadr
    · change b.requests = _; rw [breq, a3.requests, if_pos hcap, if_pos hcap]
    · rw [eu]; rfl
    · rw [eu]; change (BitVec.ofNat 32 _).toNat = _
      rw [BitVec.toNat_ofNat]; exact Nat.mod_eq_of_lt (gridPixels_lt w h)
  rw [withCapacity_fits (by rw [bcap]; omega), assembleFromPalette, if_neg (by rw [bcount]; decide), withSource,
    if_neg (by simp [ben]), bav] at hc
  by_cases hav : spriteAvail s o w h i < gridBytes w h
  · rw [if_pos hav] at hc
    cases hc
    refine fin ⟨bcount, boff, rfl⟩ (asked hcap) (.short (by omega) hav ?_ ?_) hadr
    · rw [eu]; rfl
    · have hb := gridPixels_lt w h
      rw [eu]; change (BitVec.ofNat 32 _).toNat = _
      rw [BitVec.toNat_ofNat]
      refine Nat.mod_eq_of_lt (Nat.lt_trans hav ?_)
      have : gridPixels w h = 2 * gridBytes w h := by simp only [gridPixels, gridBytes]; ring
      omega
  · rw [if_neg hav] at hc
    cases hc
    have hfull := avail_le s.srcLen.toNat (o + i * gridBytes w h) (gridBytes w h)
    have im := ImageIs.writeImage (w := w) (h := h) (kind := 1) (l := decodedImage (request (gridBytes w h) b) w h)
      (t := request (gridBytes w h) b) (by simp)
    rw [decodedImage_words (s := s) (a := request (gridBytes w h) b) (p := p) bpal bsrc bnat] at im
    refine fin ⟨bcount, boff, rfl⟩ (asked hcap) (.decoded (by omega) (by rw [spriteAvail] at *; omega) ?_ ?_) hadr
    · rw [eu]; rfl
    · rw [eu, ← baddr]
      exact ⟨im.kind, im.width, im.height, im.off, im.size, im.pixels⟩

/-- One round of the loop (R233, R234): sprite i is asked for, and found, reported, or both not. -/
theorem SearchAt.sprite (a : SearchAt s o w h p count (SearchCode.next o w h count) i i rs ps t)
    (hd : decode (encode (.asm w h)) = .ok (.asm w h)) (hd' : decode (encode (.phold w h)) = .ok (.phold w h))
    (hen : s.srcEn = true) (hi : i ≠ count) (hr : o + i * gridBytes w h < 2 ^ 32) :
    ∃ u, Runs t u ∧ SearchAt s o w h p count (SearchCode.next o w h count) (i + 1) (i + 1)
      (rs ++ (spriteFound s o w h p i).toList) (ps ++ (spriteReported s o w h i).toList) u := by
  obtain ⟨t1, r1, a1, gs, ge, gadr, tried⟩ := a.attempt hd hen hi hr
  suffices hs : ∃ u, Runs t1 u ∧ SearchAt s o w h p count SearchCode.advance i (i + 1)
      (rs ++ (spriteFound s o w h p i).toList) (ps ++ (spriteReported s o w h i).toList) u by
    obtain ⟨u, r2, a2⟩ := hs
    obtain ⟨v, r3, a3⟩ := a2.advance
    exact ⟨v, (r1.trans r2).trans r3, a3⟩
  cases tried with
  | tooLarge hc he hn =>
    obtain ⟨u, r2, a2⟩ := a1.report gs ge (by rw [he]; decide) (by rw [he]; simp)
    rw [he, hn] at a2
    refine ⟨u, r2, ?_⟩
    simpa [spriteFound, spriteReported, hc] using a2
  | short hc hs he hn =>
    by_cases hz : spriteAvail s o w h i = 0
    · obtain ⟨t2, r2, h2, a2⟩ := a1.skip (by rw [eval_errIs 0 gs, he]; rfl)
      obtain ⟨t3, r3, -, a3⟩ := a2.jump (by
        change (HostCond.eval t2.host (.eq statusErr (.lit 3)) && decide (t2.host.get HostVar.e = 0)) = true
        have hs2 : t2.host.get HostVar.s = (statusWord t1).toNat := by rw [h2]; exact gs
        have he2 : t2.host.get HostVar.e = t1.errInfo.toNat := by rw [h2]; exact ge
        rw [eval_errIs 3 hs2, he2, he, hn, hz]
        rfl) lands_hold
      have r23 := r2.trans r3
      obtain ⟨t4, r4, a4, im⟩ := a3.hold hd' hc
      rw [show t3.addr = BitVec.ofNat 32 (o + i * gridBytes w h) by rw [r23.same]; exact gadr] at im
      obtain ⟨u, r5, a5⟩ := a4.keep hc im
      refine ⟨u, (r23.runs.trans r4).trans r5, ?_⟩
      rw [spriteFound, if_neg (by omega), if_neg (by omega), if_pos hz, spriteReported, if_neg (by omega), if_pos (.inr hz)]
      simpa using a5
    · obtain ⟨u, r2, a2⟩ := a1.report gs ge (by rw [he]; decide) (by rw [hn]; exact fun h => hz h.2)
      rw [he, hn] at a2
      refine ⟨u, r2, ?_⟩
      rw [spriteFound, if_neg (by omega), if_neg (by omega), if_neg hz, spriteReported, if_neg (by omega), if_neg (by omega)]
      simpa using a2
  | decoded hc hs he im =>
    obtain ⟨t2, r2, h2, a2⟩ := a1.jump (by rw [eval_errIs 0 gs, he]; rfl) lands_keep
    have im2 : ImageIs w h (BitVec.ofNat 32 (o + i * gridBytes w h)) 1 (spritePixels s o w h p i) t2 := by
      rw [r2.same]; exact ⟨im.kind, im.width, im.height, im.off, im.size, im.pixels⟩
    obtain ⟨u, r3, a3⟩ := a2.keep hc im2
    refine ⟨u, r2.runs.trans r3, ?_⟩
    rw [spriteFound, if_neg (by omega), if_pos hs, spriteReported, if_neg (by omega), if_pos (.inl hs)]
    simpa using a3

/-! ## The palette load, and the ends -/

/-- `done`: the program has ended. -/
theorem runs_done (hi : Idle t) (hc : code t = done) :
    ∃ u, Runs t u ∧ u = { t with host := u.host } ∧ u.host = { t.host with pc := u.host.pc } ∧
      u.host.program.length ≤ u.host.pc :=
  ⟨_, (ran_host hi hc rfl).runs, rfl, rfl, code_nil (code_step (t := t.withHost t.host.advance) hc rfl rfl)⟩

/-- `empty`: an empty result, and a report of the error. -/
theorem runs_empty (hi : Idle t) (hc : code t = empty) (hs : t.host.get HostVar.s = (statusWord t).toNat) :
    ∃ u, Runs t u ∧ u = { t with host := u.host } ∧ u.host.result = [] ∧
      u.host.reports = t.host.reports ++ [.palette t.err.toNat] ∧ u.host.program.length ≤ u.host.pc := by
  have r1 : Ran t (t.withHost t.host.advance) := ran_host hi hc rfl
  have hc1 := code_step (t := t.withHost t.host.advance) hc rfl rfl
  have r2 : Ran (t.withHost t.host.advance) (t.withHost { t.host.advance.advance with result := [] }) :=
    ran_host (s := t.withHost t.host.advance) (r1.idle hi) hc1 rfl
  have hc2 := code_step (t := t.withHost { t.host.advance.advance with result := [] }) hc1 rfl rfl
  have r3 : Ran (t.withHost { t.host.advance.advance with result := [] })
      (t.withHost { t.host.advance.advance.advance with result := [], reports := t.host.reports ++ [.palette t.err.toNat] }) :=
    ran_host (s := t.withHost { t.host.advance.advance with result := [] }) ((r1.trans r2).idle hi) hc2
      (by rw [← eval_statusErr hs]; rfl)
  have r := (r1.trans r2).trans r3
  obtain ⟨u, r4, e4, e5, e6⟩ := runs_done (r.idle hi) (code_step hc2 rfl rfl)
  exact ⟨u, r.runs.trans r4, by rw [e4]; rfl, by rw [e5]; rfl, by rw [e5]; rfl, e6⟩

/-- SEARCH's palette load: ADDR, the PLOAD at P, and the read of its STATUS (R233); a failure is SourceUnavailable or
MalformedPalette. -/
theorem runs_searchPalette (hi : Idle s) (hv : cellsWf 0 s.host.vars = true) (hp : p ≤ 2 ^ 32 - 1) {rest : List HostInstr}
    (hc : code s = searchPalette p ++ rest) :
    ∃ t, Runs s t ∧ Idle t ∧ t.host.get HostVar.s = (statusWord t).toNat ∧ cellsWf 0 t.host.vars = true ∧
      t.host = { s.host with pc := t.host.pc, vars := t.host.vars } ∧ t.src = s.src ∧ t.srcEn = s.srcEn ∧ t.srcLen = s.srcLen ∧
      t.fbMaxPixels = s.fbMaxPixels ∧
      code t = .ifGoto (.eq statusErr (.lit 2)) lblEmpty :: .ifGoto (.eq statusErr (.lit 4)) lblEmpty :: rest ∧
      match searchPaletteError s p with
      | some e => t.err.toNat = e ∧ (e = 2 ∨ e = 4) ∧ t.requests = s.requests ++ (if s.srcEn then [⟨BitVec.ofNat 32 p, 32⟩] else [])
      | none => t.err = 0#4 ∧ t.requests = s.requests ++ [⟨BitVec.ofNat 32 p, 32⟩] ∧ t.palCount = 16#5 ∧ t.palOff = BitVec.ofNat 32 p ∧
          ∀ j : Fin 16, t.pal[j] = col15 (srcRead16 s (p + 2 * j.val)) := by
  have h2 := step_wr hi hc rfl (by simp only [HostExpr.eval]; omega)
  simp only [HostExpr.eval] at h2
  have c2 := code_step (t := writeReg .addr (BitVec.ofNat 32 p) (s.withHost s.host.advance)) hc rfl rfl
  have iv : Idle (writeReg .addr (BitVec.ofNat 32 p) (s.withHost s.host.advance)) := ⟨hi.events, hi.busy, hi.capacity⟩
  have vv : cellsWf 0 (writeReg .addr (BitVec.ofNat 32 p) (s.withHost s.host.advance)).host.vars = true := hv
  obtain ⟨u, t4, hu, r4, hi4, hc4, e4, eh4, hv4, -⟩ := run_command (i := .pload) iv vv c2 rfl
  generalize ha : accept _ _ = a at hu
  have aL : a.latch = ⟨encode .pload, BitVec.ofNat 32 p, s.srcLen, s.srcEn⟩ := by rw [← ha]; rfl
  have aaddr : a.latch.addr.toNat = p := by rw [aL, BitVec.toNat_ofNat]; exact Nat.mod_eq_of_lt (by omega)
  have aav : latchAvail a 32 = avail s.srcLen.toNat p 32 := by rw [latchAvail, aaddr, aL]
  have areq : a.requests = s.requests := by rw [← ha]; rfl
  have asrc : a.src = s.src := by rw [← ha]; rfl
  obtain ⟨f1, -, -, -, f5, -, f7, f8, -⟩ := exec_frame hu
  obtain ⟨t5, r5, hh5⟩ := ran_rd hi4 hc4 rfl
  have b5 : t5 = { u with readData := t5.readData, host := t5.host } := by rw [r5.same, e4]
  have hu' : u = withSource 32 .malformedPalette loadPalette a := (Host.Outcome.next.inj hu).symm
  have hgs : t5.host.get HostVar.s = (statusWord t5).toNat := by
    rw [hh5]; exact (get_set hv4).trans (by rw [if_pos rfl, r5.same]; rfl)
  have e1 : t5.src = s.src := by rw [b5]; exact f8.trans asrc
  have e2 : t5.srcEn = s.srcEn := by rw [b5]; exact f1.trans (by rw [← ha]; rfl)
  have e3 : t5.srcLen = s.srcLen := by rw [b5]; exact f5.trans (by rw [← ha]; rfl)
  have e4' : t5.fbMaxPixels = s.fbMaxPixels := by rw [b5]; exact f7.trans (by rw [← ha]; rfl)
  refine ⟨t5, (r4.trans r5.runs).head h2, r5.idle hi4, hgs, by rw [hh5]; exact varsWf_set hv4, ?_, e1, e2, e3, e4',
    code_step hc4 (by rw [hh5]; rfl) (by rw [hh5]; rfl), ?_⟩
  · rw [hh5]; change ({ t4.host with pc := _, vars := _ } : HostCtx) = _; rw [eh4]; rfl
  unfold searchPaletteError
  by_cases hen : s.srcEn = false
  · rw [hu', withSource, if_pos (by rw [aL]; exact hen)] at b5
    rw [if_pos hen]
    refine ⟨by rw [b5]; rfl, .inl rfl, ?_⟩
    rw [b5, hen]; change a.requests = _; rw [areq]; simp
  · rw [if_neg hen]
    have hen : s.srcEn = true := by simpa using hen
    rw [hu', withSource, if_neg (by rw [aL, hen]; simp), aav] at b5
    by_cases hav : avail s.srcLen.toNat p 32 < 32
    · rw [if_pos hav] at b5 ⊢
      refine ⟨by rw [b5]; rfl, .inr rfl, ?_⟩
      rw [b5, hen]; change a.requests ++ [⟨a.latch.addr, 32⟩] = _; rw [areq, aL]; rfl
    · rw [if_neg hav] at b5 ⊢
      refine ⟨by rw [b5]; rfl, ?_, by rw [b5]; rfl, ?_, fun j => ?_⟩
      · rw [b5]; change a.requests ++ [⟨a.latch.addr, 32⟩] = _; rw [areq, aL]
      · rw [b5]; change a.latch.addr = _; rw [aL]
      · rw [b5]
        change (Vector.ofFn fun j => paletteEntry (request 32 a) j.val)[j] = _
        simp only [Fin.getElem_fin, Vector.getElem_ofFn, paletteEntry]
        rw [show (request 32 a).latch.addr.toNat = p from aaddr, srcRead16, srcRead16,
          srcRead_of_src (s := s) (t := request 32 a) asrc]

end Sys2Proof.Machine
end

