-- ==== Sys2Proof/Tests/Slice0.lean ====
section
/-! SUPPORT. The model's own tests: ill-formed terms, words written out from spec/30_encoding.md, one-step tests whose expected
values are those of spec/95_test_vectors.md, and one witness theorem for the hypotheses of each statement. -/

namespace Sys2Proof.Tests

open Sys2Proof.Machine

/-! ## Helpers -/

/-- A canonical byte source with `bytes` from address `a` on. -/
def bytesAt (a : Nat) (bytes : List Byte) : List Host.Cell :=
  bytes.foldr (fun b k n => let rest := k (n + 1); if b = 0 then rest else (n, b) :: rest) (fun _ => []) a

/-- A BUSY engine with the command word `v` latched, the source operands `addr` and `len`, and `bytes` at `addr`. -/
def ready (v : Word) (addr len : Nat) (bytes : List Byte) : State :=
  { State.reset with
    busy := true, cmd := v, srcEn := true, src := bytesAt addr bytes,
    latch := ⟨v, BitVec.ofNat 32 addr, BitVec.ofNat 32 len, true⟩ }

/-- The palette RAMP of spec/95_test_vectors.md section 3: entry i is (8i, 8i, 8i). -/
def ramp : Vector Rgb 16 := Vector.ofFn fun i => ⟨BitVec.ofNat 8 (8 * i.val), BitVec.ofNat 8 (8 * i.val), BitVec.ofNat 8 (8 * i.val)⟩

/-- `ready` with the palette RAMP loaded. -/
def ready16 (v : Word) (addr len : Nat) (bytes : List Byte) : State :=
  { ready v addr len bytes with pal := ramp, palCount := 16 }

/-- The outcome is a next state with property `p`. -/
def nextIs (o : Host.Outcome State Fault Refusal) (p : State → Bool) : Bool :=
  match o with
  | .next t => p t
  | .fault _ => false
  | .refused _ => false

/-- The outcome is the refusal `q`. -/
def refusedIs (o : Host.Outcome State Fault Refusal) (q : Refusal) : Bool :=
  match o with
  | .next _ => false
  | .fault _ => false
  | .refused r => r == q

/-! ## WellFormed: one ill-formed term for each check -/

theorem test_wf_asm_zero_w : (Instr.asm 0 1).wf = false := by decide
theorem test_wf_asm_zero_h : (Instr.asm 1 0).wf = false := by decide
theorem test_wf_phold_zero_w : (Instr.phold 0 255).wf = false := by decide
theorem test_wf_phold_zero_h : (Instr.phold 255 0).wf = false := by decide

/-! ## Decode: words written out field by field, RSV1 H W RSV0 OP (R111, R114) -/

theorem test_decode_nop : decode 0b00000000_00000000_00000000_0000_0000 = .ok .nop := by decide
theorem test_decode_pload : decode 0b00000000_00000000_00000000_0000_0001 = .ok .pload := by decide
theorem test_decode_pclr : decode 0b00000000_00000000_00000000_0000_0010 = .ok .pclr := by decide
theorem test_decode_tunpk : decode 0b00000000_00000000_00000000_0000_0011 = .ok .tunpk := by decide
/-- V46: `ASM 255, 1`. -/
theorem test_decode_asm : decode 0b00000000_00000001_11111111_0000_0100 = .ok (.asm 255 1) := by decide
/-- V57: `PHOLD 2, 3`. -/
theorem test_decode_phold : decode 0b00000000_00000011_00000010_0000_0101 = .ok (.phold 2 3) := by decide
theorem test_table_word : decodeTableWord 32 0x00212004 = some (.asm 32 33) := by decide
theorem test_table_word_illegal : decodeTableWord 32 0x00000006 = none := by decide

/-! ## The assembler (R120) -/

theorem test_assemble_nop : assembleLine "NOP".toList = some .nop := by decide
theorem test_assemble_asm : assembleLine "  ASM 0x10, 3 ; a grid".toList = some (.asm 16 3) := by decide
theorem test_assemble_zero : assembleLine "PHOLD 0, 3".toList = none := by decide

/-! ## One-step tests -/

/-- V61. -/
theorem test_nop_v61 : nextIs (execNop (accept 0 State.reset)) (fun t => regValue t .status == 0x00000002) = true := by decide

/-- V11 at j = 0 and V9 at j = 15. -/
theorem test_pload_v11 :
    nextIs (execPload (ready 1 0 64 ([0x34, 0x12] ++ List.replicate 28 0 ++ [0x21, 0x04])))
      (fun t => regValue t (.pal 0) == 0x002088A0 && regValue t (.pal 15) == 0x00080808 && regValue t .palCount == 16) = true := by
  decide

/-- V18: 15 bytes are left, and the address does not wrap. -/
theorem test_pload_v18 :
    nextIs (execPload (ready 1 0xFFFFFFF0 0xFFFFFFFF []))
      (fun t => regValue t .status == 0x00000402 && regValue t .errInfo == 15) = true := by decide

/-- V20. -/
theorem test_pclr_v20 :
    nextIs (execPclr { ready16 2 0 0 [] with palOff := 0x40 })
      (fun t => regValue t .palCount == 0 && regValue t .palOff == 0 && regValue t (.pal 15) == 0 && regValue t .status == 2) = true := by
  decide

/-- V24. -/
theorem test_tunpk_v24 :
    nextIs (execTunpk (ready 3 0 32 [0x10, 0x32, 0x54, 0x76]))
      (fun t => regValue t (.tidxRow 0) == 0x76543210 && t.tidx[0][1] == 1) = true := by decide

/-- V31. -/
theorem test_tunpk_v31 :
    nextIs (execTunpk (ready 3 1 32 []))
      (fun t => regValue t .status == 0x00000302 && regValue t .errInfo == 31) = true := by decide

/-- V50: `ASM 2, 1` of a tile of `11` and a tile of `22`: pixels 7, 8 and 16·7 + 8. -/
theorem test_asm_v50 :
    nextIs (execAsm 2 1 (ready16 0x00010204 0 64 (List.replicate 32 0x11 ++ List.replicate 32 0x22)))
      (fun t => regValue t (.fb 7) == 0x00080808 && regValue t (.fb 8) == 0x00101010 && regValue t (.fb 120) == 0x00101010 &&
        regValue t .fbDim == 0x00080010 && regValue t (.fb 128) == 0) = true := by decide +kernel

/-- V68: FrameTooLarge comes before PaletteEmpty and SourceUnavailable. -/
theorem test_asm_v68 :
    nextIs (execAsm 32 33 (accept 0x00212004 State.reset))
      (fun t => regValue t .status == 0x00000602 && regValue t .errInfo == 67584) = true := by decide

/-- V57, in V58's state: no palette, no source. -/
theorem test_phold_v57 :
    nextIs (execPhold 2 3 (accept 0x00030205 { State.reset with addr := 0x20 }))
      (fun t => regValue t .fbKind == 2 && regValue t .fbGrid == 0x00000302 && regValue t .fbDim == 0x00180010 &&
        regValue t .fbOff == 0x20 && regValue t (.fb 383) == 0x00AAAAAA && regValue t (.fb 384) == 0) = true := by decide +kernel

/-- V59. -/
theorem test_phold_v59 :
    nextIs (execPhold 32 33 State.reset) (fun t => regValue t .status == 0x00000602 && regValue t .errInfo == 67584) = true := by
  decide

/-- V63: an illegal word. -/
theorem test_illegal_v63 :
    nextIs (step (ready 6 0 0 [])) (fun t => regValue t .status == 0x00000102 && regValue t .errInfo == 6) = true := by decide

/-- V37, V39 and V41: the mapper. -/
theorem test_mapper_v37 : (mapAddr 0 2 9 10, mapNibble 9) = (104, 1) := by decide
theorem test_mapper_v39 : (mapAddr 100 3 23 0, mapNibble 23) = (167, 1) := by decide
theorem test_mapper_v41 : (mapAddr 5 1 1 9, mapNibble 1) = (41, 1) := by decide

/-- V71: a CMD write while BUSY. -/
theorem test_overrun_v71 :
    nextIs (step { ready 1 0 0 [] with events := [.write 0x00008 32 2] })
      (fun t => regValue t .status == 0x00000005 && regValue t .cmd == 1) = true := by decide

/-- V72 and V73: STATUS writes. -/
theorem test_status_write_v72 :
    nextIs (step { State.reset with ovr := true, done := true, events := [.write 0x00004 32 4] })
      (fun t => regValue t .status == 0x00000002) = true := by decide
theorem test_status_write_v73 :
    nextIs (step { State.reset with ovr := true, done := true, events := [.write 0x00004 32 3] })
      (fun t => regValue t .status == 0x00000006) = true := by decide

/-- V77: reset while an ASM is in flight. -/
theorem test_reset_v77 :
    nextIs (step { ready16 0x00010104 0 32 [] with events := [.reset] })
      (fun t => regValue t .status == 0 && regValue t .fbKind == 0 && regValue t .palCount == 0) = true := by decide

/-- R235 (S9): the ADDR values of SEARCH(O, 2, 2, P, 3) are P and O + 128 i. -/
theorem test_search_addresses :
    (searchProgram 32 2 2 0 3).filterMap (fun op => match op with | .wr .addr e => some (e.eval ⟨[], 0, [(2, 2), (3, 128)], [], [], true⟩) | _ => none)
      = [0, 288] := by decide +kernel

/-- R121, log 16: a value of 2^32 writes ADDR with the free draw, and every other effect of the write happens. -/
theorem test_wide_write :
    hostAction (.wr .addr (.lit 0x100000000)) State.reset =
      .next { State.reset with addr := Config.wideWrite 0, draws := 1, host := { HostCtx.idle with pc := 1 } } := rfl

/-- R230, S11: a source length of 2^32 cannot be described. -/
theorem test_source_too_long :
    refusedIs (hostAction (.wr .srcLen (.lit 0x100000000)) State.reset) (.sourceTooLong 0x100000000) = true := by decide

/-- S8: on a source that cannot be opened SEARCH asks for nothing, returns nothing and reports SourceUnavailable. -/
theorem test_search_unavailable :
    searchRequests State.reset 32 1 1 0 1 = [] ∧ searchRecords State.reset 32 1 1 0 1 = [] ∧
    searchReports State.reset 32 1 1 0 1 = [.palette 2] := by decide

/-- S9: SEARCH(O, 2, 2, P, 3) asks for (P, 32), (O, 128), (O + 128, 128), (O + 256, 128), in that order. -/
theorem test_search_requests_s9 :
    searchRequests { State.reset with srcEn := true, srcLen := 0x1000 } 0x100 2 2 0x20 3 =
      [⟨0x20, 32⟩, ⟨0x100, 128⟩, ⟨0x180, 128⟩, ⟨0x200, 128⟩] := by decide

/-! ## Witnesses: each shows states and operands that meet all hypotheses of one statement, clause by clause -/

theorem witness_DecodeOfEncodeIsTheCommand : (Instr.asm 255 1).wf = true ∧ (Instr.phold 1 255).wf = true := by decide

theorem witness_EncodeOfDecodeIsTheWord : decode 0x00FFFF04 = .ok (.asm 255 255) := by decide

theorem witness_StepRunsTheDecodedCommand :
    ((ready 3 0 0 []).busy = true ∧ decode (ready 3 0 0 []).latch.cmd = .ok .tunpk ∧ (ready 3 0 0 []).events = []) ∧
    ∃ s : State, s.busy = true ∧ decode s.latch.cmd = .ok (.asm 1 1) ∧ s.events = [.engine, .reset] :=
  ⟨by decide, { ready 0x00010104 0 0 [] with events := [.engine, .reset] }, by decide⟩

theorem witness_PlacedWordRunsNext : decodeTableWord 32 0x00FF0105 = some (.phold 1 255) := by decide

theorem witness_IllegalWordReportsItself :
    ∃ s : State, s.busy = true ∧ s.events = [.engine] ∧ decode s.latch.cmd = .error .reservedOpcode ∧ s.ovr = false :=
  ⟨{ ready 0x0000000F 0 0 [] with events := [.engine] }, by decide⟩

theorem witness_ErrorsWriteNoResult :
    (∃ t, complete (ready 3 1 32 []) = .next t ∧ t.err ≠ 0#4) ∧ ∃ t, complete (ready 6 0 0 []) = .next t ∧ t.err ≠ 0#4 :=
  ⟨⟨_, rfl, by decide⟩, _, rfl, by decide⟩

theorem witness_RequestsOnTheSourcePort :
    (∃ t, exec .pload (ready 1 0 0 []) = .next t) ∧ (ready 1 0 0 []).latch.srcEn = true ∧
    64 * (32#8).toNat * (32#8).toNat ≤ (ready16 0x00202004 0 0 []).fbMaxPixels ∧
    ¬ 64 * (32#8).toNat * (33#8).toNat ≤ (ready16 0x00212004 0 0 []).fbMaxPixels ∧ (ready16 0x00202004 0 0 []).palCount ≠ 0#5 :=
  ⟨⟨_, rfl⟩, by decide⟩

/-- Avail 31 of 32, nothing left, exactly enough; a TUNPK and an ASM one byte short. -/
theorem witness_ShortBuffersAreNeverDecoded :
    32 < 1 + 32 ∧ 32 ≤ 32 ∧ 0 + 32 ≤ 32 ∧
    (sourceNeed .tunpk = some 32 ∧ (ready 3 1 32 []).latch.srcLen.toNat < (ready 3 1 32 []).latch.addr.toNat + 32 ∧
      ∃ t, exec .tunpk (ready 3 1 32 []) = .next t) ∧
    (sourceNeed (.asm 2 2) = some 128 ∧ (Instr.asm 2 2).wf = true ∧ 127 < (ready16 0x00020204 0 127 []).latch.addr.toNat + 128) :=
  ⟨by decide, by decide, by decide, ⟨by decide, by decide, _, rfl⟩, by decide⟩

/-- A command of each group: the palette's, the tile's, the image's. -/
theorem witness_CommandsWriteOnlyTheirOwnResult :
    (∃ t, exec .tunpk (ready 3 0 32 []) = .next t) ∧ Instr.tunpk ≠ .pload ∧ Instr.tunpk ≠ .pclr ∧
    (∀ w h, Instr.tunpk ≠ .asm w h ∧ Instr.tunpk ≠ .phold w h) ∧ (∃ t, exec (.phold 1 1) State.reset = .next t) ∧
    Instr.phold 1 1 ≠ .tunpk :=
  ⟨⟨_, rfl⟩, by decide, by decide, by simp, ⟨_, rfl⟩, by decide⟩

/-- Two states that differ in a tile index, a host register and a byte outside the record. -/
theorem witness_CompletionDependsOnlyOnItsInputs :
    ∃ s t : State, s ≠ t ∧ s.latch = t.latch ∧ s.pal = t.pal ∧ s.palCount = t.palCount ∧ s.fbMaxPixels = t.fbMaxPixels ∧
      sameBytes s t s.latch.addr.toNat ((sourceNeed .pload).getD 0) :=
  ⟨ready 1 0 32 [5], { ready 1 0 32 [5] with addr := 7, src := [(0, 5), (32, 9)] },
    fun h => absurd (congrArg State.addr h) (by decide), rfl, rfl, rfl, rfl, by unfold sameBytes; decide⟩

theorem witness_CompletingAgainWritesTheSame :
    ∃ t u, exec .pload (ready 1 0 32 [5]) = .next t ∧ exec .pload t = .next u := ⟨_, _, rfl, rfl⟩

theorem witness_NopOnlyCompletes : (0x00000100#32).toNat % 16 = 0 ∧ 0x00000100#32 ≠ 0#32 := by decide

theorem witness_PclrEmptiesThePalette : (0x00000012#32).toNat % 16 = 2 ∧ 0x00000012#32 ≠ 2#32 := by decide

theorem witness_PloadLoadsThePalette :
    (ready 1 32 64 []).latch.srcEn = true ∧ (ready 1 32 64 []).latch.addr.toNat + 32 ≤ (ready 1 32 64 []).latch.srcLen.toNat := by
  decide

theorem witness_PloadErrorsKeepThePalette :
    (accept 1 State.reset).latch.srcEn = false ∧ (ready 1 33 64 []).latch.srcEn = true ∧
    (ready 1 33 64 []).latch.srcLen.toNat < (ready 1 33 64 []).latch.addr.toNat + 32 := by decide

theorem witness_TunpkUnpacksTheTile :
    (ready 3 0 32 []).latch.srcEn = true ∧ (ready 3 0 32 []).latch.addr.toNat + 32 ≤ (ready 3 0 32 []).latch.srcLen.toNat ∧
    3 < 4 := by decide

theorem witness_TunpkErrorsKeepTheTile :
    (accept 3 State.reset).latch.srcEn = false ∧ (ready 3 1 32 []).latch.srcEn = true ∧
    (ready 3 1 32 []).latch.srcLen.toNat < (ready 3 1 32 []).latch.addr.toNat + 32 := by decide

theorem witness_TileRowReadsBackItsBytes :
    (ready 3 5 37 []).latch.srcEn = true ∧ (ready 3 5 37 []).latch.addr.toNat + 32 ≤ (ready 3 5 37 []).latch.srcLen.toNat := by decide

/-- V44 (exactly at capacity, Avail = len) and its last pixel, whose byte reads 0. -/
theorem witness_AsmAssemblesTheImage :
    ∃ s : State, 64 * (32#8).toNat * (32#8).toNat ≤ s.fbMaxPixels ∧ s.palCount ≠ 0#5 ∧ s.latch.srcEn = true ∧
      s.latch.addr.toNat + 32 * (32#8).toNat * (32#8).toNat ≤ s.latch.srcLen.toNat ∧ 32#8 ≠ 0#8 ∧ 255 < 8 * (32#8).toNat ∧
      0 = (srcRead s (s.latch.addr.toNat + 32 * (255 / 8 * (32#8).toNat + 255 / 8) + 4 * (255 % 8) + 255 % 8 / 2)).toNat ∧
      (0#4).toNat = (if 255 % 2 = 0 then 0 % 16 else 0 / 16) ∧ 64 * (32#8).toNat * (32#8).toNat ≤ 65536 :=
  ⟨ready16 0x00202004 0 32768 [], by decide⟩

/-- V48, V49, V65, V66 as ASM words; V45, V21, V56 and V54. -/
theorem witness_AsmErrorsInTheirOrder :
    (∀ v, (ready v 0 0 []).latch.cmd = v) ∧ (opField 0x00010004 = 4#4 ∧ wField 0x00010004 = 0#8) ∧ (opField 0x00000104 = 4#4 ∧ hField 0x00000104 = 0#8) ∧
    (opField 0x00010114 = 4#4 ∧ rsv0Field 0x00010114 ≠ 0#4) ∧ (opField 0x01010104 = 4#4 ∧ rsv1Field 0x01010104 ≠ 0#8) ∧
    State.reset.fbMaxPixels < 64 * (32#8).toNat * (33#8).toNat ∧
    (64 * (32#8).toNat * (32#8).toNat ≤ State.reset.fbMaxPixels ∧ State.reset.palCount = 0#5) ∧
    (let s := { State.reset with pal := ramp, palCount := 16 }; s.palCount ≠ 0#5 ∧ s.latch.srcEn = false) ∧
    (let s := ready16 0x00020204 0 127 []
     s.palCount ≠ 0#5 ∧ s.latch.srcEn = true ∧ 2#8 ≠ 0#8 ∧
       s.latch.srcLen.toNat < s.latch.addr.toNat + 32 * (2#8).toNat * (2#8).toNat)  := ⟨fun _ => rfl, by decide⟩

theorem witness_PholdFillsThePlaceholder :
    64 * (32#8).toNat * (32#8).toNat ≤ State.reset.fbMaxPixels ∧ 65535 < 64 * (32#8).toNat * (32#8).toNat := by decide

theorem witness_FrameTooLargeExactlyPastCapacity :
    State.reset.fbMaxPixels < 64 * (32#8).toNat * (33#8).toNat ∧ ¬ State.reset.fbMaxPixels < 64 * (32#8).toNat * (32#8).toNat ∧
    State.reset.fbMaxPixels = 65536 := by decide

/-- A state that holds a placeholder image and has a step. -/
theorem witness_EveryStepKeepsTheInvariant :
    ∃ s t : State, StateInv s ∧ s.fbKind = 2#2 ∧ step s = .next t :=
  ⟨placeholder 1 1 { State.reset with events := [.write 0x00008 32 0x00010104] }, _,
    { capacity := by decide, srcWf := rfl, varsWf := rfl, busyNotDone := by decide, noOutcome := by decide, errLegal := by decide,
      busyLatch := by decide, palCountLegal := .inl rfl, palOffEmpty := fun _ => rfl, palScaled := by decide,
      kindLegal := by decide, noImage := by decide, noImageOff := by decide, dims := by decide, imageFits := by decide,
      imageWritten := by decide +kernel, storageFits := by decide +kernel,
      decodedPixels := by intro h; exact absurd h (by decide),
      placeholderPixels := fun _ k hk => by
        have hk : k < 64 := hk
        simp only [placeholder, fbEntry_succeed, fbEntry_writeImage]
        rw [dif_pos (by simpa [placeholderImage, gridPixels] using hk)]
        simp [placeholderImage] },
    rfl, rfl⟩

theorem witness_ResetDiscardsTheCommandInFlight :
    ∃ s : State, s.events = [.reset] ∧ s.busy = true ∧ s.srcEn = true :=
  ⟨{ ready 0x00010104 0 32 [] with events := [.reset] }, by decide⟩

theorem witness_FirstCommandsAfterReset : (32#8).toNat * (32#8).toNat ≤ 1024 := by decide

/-- The last register of each array, and the last word of the window. -/
theorem witness_RegisterMapIsInvertible :
    (∀ k, Reg.fb 65535 = .fb k → k < 65536) ∧ (∀ k, Reg.pal 15 = .fb k → k < 64) ∧ 0x4FFFC % 4 = 0 ∧
    regAt 65536 0x4FFFC = some (.fb 65535) ∧ regAt 64 0x0007C = some (.pal 15) ∧ regAt 64 0x0009C = some (.tidxRow 7) ∧
    regAt 64 0x00030 = some .fbCap :=
  ⟨by simp, by simp, by decide +kernel⟩

/-- A host context inside a SEARCH, after its first action. -/
def searchingHost : HostCtx := ⟨searchPalette 0, 1, [], [], [], true⟩

/-- BUSY = 0 with a result register, BUSY = 1 with STATUS, and a read of ERRINFO inside a SEARCH; both sides of the masks of PAL[i]
and FB[k], and the smallest and largest capacity. -/
theorem witness_ReadsAnswerTheRegister :
    (State.reset.palCount ≠ 16#5 ∧ (ready16 1 0 0 []).palCount = 16#5) ∧
    (let t := writeImage 2 1 1 [] State.reset; 63 < t.fbDimW.toNat * t.fbDimH.toNat ∧ ¬ 64 < t.fbDimW.toNat * t.fbDimH.toNat) ∧
    State.reset.fbMaxPixels = 65536 ∧
    (∃ s : State, s.fbMaxPixels ≤ 65536 ∧ regExists s (.fb 65535) = true ∧ s.host.inSearch = false ∧
      s.events = [.read (BitVec.ofNat 20 (Reg.offset (.fb 65535))) 32] ∧ s.busy = false) ∧
    (∃ s : State, regExists s .status = true ∧ s.host.inSearch = false ∧
      s.events = [.read (BitVec.ofNat 20 (Reg.offset .status)) 32] ∧ s.busy = true ∧ Reg.isResult .status = false) ∧
    ∃ s : State, s.host.inSearch = true ∧ Reg.errInfo ≠ .addr ∧ Reg.errInfo ≠ .cmd ∧ Reg.isResult .errInfo = false ∧
      s.events = [.read (BitVec.ofNat 20 (Reg.offset .errInfo)) 32] :=
  ⟨by decide, by decide, by decide, ⟨{ State.reset with events := [.read 0x4FFFC 32] }, by decide⟩,
    ⟨{ ready 1 0 0 [] with events := [.read 0x00004 32] }, by decide⟩,
    { State.reset with host := searchingHost, events := [.read 0x00014 32] }, by decide⟩

theorem witness_BusyResultReadsAreFreeDraws :
    (∃ s : State, s.fbMaxPixels ≤ 65536 ∧ regExists s (.tidxRow 7) = true ∧ s.host.inSearch = false ∧
      s.events = [.read (BitVec.ofNat 20 (Reg.offset (.tidxRow 7))) 32] ∧ s.busy = true ∧ Reg.isResult (.tidxRow 7) = true) ∧
    (∃ s : State, s.events = [.read (BitVec.ofNat 20 (Reg.offset .cmd)) 32] ∧ s.busy = true ∧ Reg.isResult .cmd = false ∧
      s.host.inSearch = false) ∧
    ∃ s : State, s.events = [.read (BitVec.ofNat 20 (Reg.offset .fbCap)) 32] ∧ s.busy = true ∧ Reg.isResult .fbCap = false ∧
      s.host.inSearch = true ∧ Reg.fbCap ≠ .addr ∧ Reg.fbCap ≠ .cmd :=
  ⟨⟨{ ready 3 0 0 [] with events := [.read 0x0009C 32] }, by decide⟩, ⟨{ ready 1 0 0 [] with events := [.read 0x00008 32] }, by decide⟩,
    { ready 1 0 0 [] with host := searchingHost, events := [.read 0x00030 32] }, by decide⟩

/-- The ends of the three reserved ranges, with a capacity of 64 for the third. -/
theorem witness_ReservedOffsetsReadZeroAndIgnoreWrites :
    (∀ off ∈ [0x00034#20, 0x0003C#20], off.toNat % 4 = 0 ∧ 0x00034 ≤ off.toNat ∧ off.toNat ≤ 0x0003C) ∧
    (∀ off ∈ [0x000A0#20, 0x0FFFC#20], off.toNat % 4 = 0 ∧ 0x000A0 ≤ off.toNat ∧ off.toNat ≤ 0x0FFFC) ∧
    (∀ off ∈ [0x10100#20, 0xFFFFC#20], off.toNat % 4 = 0 ∧ 0x10000 + 4 * 64 ≤ off.toNat) ∧
    (∃ s : State, s.fbMaxPixels = 64 ∧ s.events = [.read 0x10100 32]) ∧
    ∃ s : State, s.fbMaxPixels = 64 ∧ s.events = [.write 0xFFFFC 32 1] :=
  ⟨by simp, by simp, by simp,
    ⟨{ State.reset with fbMaxPixels := 64, events := [.read 0x10100 32] }, rfl, rfl⟩,
    { State.reset with fbMaxPixels := 64, events := [.write 0xFFFFC 32 1] }, rfl, rfl⟩

theorem witness_AccessesOutsideTheContractAreRefused :
    (∃ s : State, s.events = [.read 0x00004 8] ∧ s.host.inSearch = false ∧ (8 : Nat) ≠ 32) ∧
    ∃ s : State, s.events = [.write 0x00009 32 1] ∧ (0x00009#20).toNat % 4 ≠ 0 :=
  ⟨⟨{ State.reset with events := [.read 0x00004 8] }, by decide⟩, { State.reset with events := [.write 0x00009 32 1] }, by decide⟩

theorem witness_CmdWriteAcceptsWhenIdle :
    ∃ s : State, s.busy = false ∧ s.host.inSearch = false ∧ s.events = [.write 0x00008 32 6] ∧ s.done = true :=
  ⟨{ State.reset with done := true, events := [.write 0x00008 32 6] }, by decide⟩

theorem witness_CmdWriteIsDroppedWhenBusy :
    ∃ s : State, s.busy = true ∧ s.host.inSearch = false ∧ s.events = [.write 0x00008 32 2] :=
  ⟨{ ready 1 0 0 [] with events := [.write 0x00008 32 2] }, by decide⟩

/-- CTRL, SRC_LEN and STATUS inside a SEARCH, ADDR outside one, each while BUSY; a STATUS write with and without bit 2; and the last
pixel outside a SEARCH, ERRINFO inside one. -/
theorem witness_OperandWritesTakeEffectAtOnce :
    (∃ s : State, s.host.inSearch = true ∧ s.busy = true ∧ s.events = [.write 0x00000 32 0xFFFFFFFE]) ∧
    (∃ s : State, s.host.inSearch = false ∧ s.busy = true ∧ s.events = [.write 0x0000C 32 0xFFFFFFFF]) ∧
    (∃ s : State, s.host.inSearch = true ∧ s.busy = true ∧ s.events = [.write 0x00010 32 1]) ∧
    (∃ s : State, s.host.inSearch = true ∧ s.busy = true ∧ s.ovr = true ∧ s.events = [.write 0x00004 32 4]) ∧
    ((4#32).toNat / 4 % 2 = 1 ∧ (0xFFFFFFFB#32).toNat / 4 % 2 ≠ 1) ∧
    (∃ s : State, s.fbMaxPixels ≤ 65536 ∧ regExists s (.fb 65535) = true ∧ Reg.fb 65535 ∉ [Reg.ctrl, .status, .cmd, .addr, .srcLen] ∧
      s.host.inSearch = false ∧ s.events = [.write (BitVec.ofNat 20 (Reg.offset (.fb 65535))) 32 1]) ∧
    ∃ s : State, regExists s .errInfo = true ∧ Reg.errInfo ∉ [Reg.ctrl, .status, .cmd, .addr, .srcLen] ∧ s.host.inSearch = true ∧
      Reg.isResult .errInfo = false ∧ s.events = [.write (BitVec.ofNat 20 (Reg.offset .errInfo)) 32 1] :=
  ⟨⟨{ ready 1 0 0 [] with host := searchingHost, events := [.write 0x00000 32 0xFFFFFFFE] }, by decide⟩,
    ⟨{ ready 1 0 0 [] with events := [.write 0x0000C 32 0xFFFFFFFF] }, by decide⟩,
    ⟨{ ready 1 0 0 [] with host := searchingHost, events := [.write 0x00010 32 1] }, by decide⟩,
    ⟨{ ready 1 0 0 [] with ovr := true, host := searchingHost, events := [.write 0x00004 32 4] }, by decide⟩, by decide,
    ⟨{ ready 1 0 0 [] with events := [.write 0x4FFFC 32 1] }, by decide⟩,
    { ready 1 0 0 [] with host := searchingHost, events := [.write 0x00014 32 1] }, by decide⟩

/-- One input and the move it makes. -/
def moveOf (s : State) (e : Event) : Move := nextMove { s with events := [e] }

/-- Every clause of the rules on BUSY, DONE, OVR and the host registers, each with a step to a next state. -/
theorem witness_BusyChangesOnlyAsTheRuleSays :
    moveOf State.reset (.write 0x00008 32 1) = .write .cmd 1 ∧ moveOf (ready 1 0 0 []) .engine = .complete ∧
    moveOf State.reset .reset = .reset ∧ moveOf State.reset (.read 0x00004 32) = .other ∧
    (∃ t, step { State.reset with events := [.write 0x00008 32 1] } = .next t) ∧
    (∃ t, step { ready 1 0 0 [] with events := [.engine] } = .next t) ∧ (∃ t, step { State.reset with events := [.reset] } = .next t) ∧
    ∃ t, step { State.reset with events := [.read 0x00004 32] } = .next t :=
  ⟨by decide, by decide, by decide, by decide, ⟨_, rfl⟩, ⟨_, rfl⟩, ⟨_, rfl⟩, ⟨_, rfl⟩⟩

theorem witness_DoneChangesOnlyAsTheRuleSays :
    moveOf { State.reset with done := true } (.write 0x00008 32 1) = .write .cmd 1 ∧
    (∃ t, step { State.reset with done := true, events := [.write 0x00008 32 1] } = .next t) ∧
    ∃ t, step { State.reset with done := true, events := [.write 0x00004 32 2] } = .next t :=
  ⟨by decide, ⟨_, rfl⟩, ⟨_, rfl⟩⟩

theorem witness_OverrunChangesOnlyAsTheRuleSays :
    moveOf { State.reset with ovr := true } (.write 0x00004 32 4) = .write .status 4 ∧
    (∃ t, step { State.reset with ovr := true, events := [.write 0x00004 32 4] } = .next t) ∧
    ∃ t, step { ready 1 0 0 [] with events := [.write 0x00008 32 2] } = .next t :=
  ⟨by decide, ⟨_, rfl⟩, ⟨_, rfl⟩⟩

/-- After an error: a completion of an illegal word and of a command, an acceptance, a dropped CMD write, a reset, and a write to
ERRINFO. -/
theorem witness_ErrorRecordChangesOnlyAsTheRuleSays :
    let failed := { State.reset with done := true, err := 3#4, errInfo := 31#32 }
    (moveOf (ready 6 0 0 []) .engine = .complete ∧ decode 6#32 = .error .reservedOpcode) ∧
    (moveOf (ready 3 1 32 []) .engine = .complete ∧ decode 3#32 = .ok .tunpk ∧ ∃ u, exec .tunpk (ready 3 1 32 []) = .next u) ∧
    (moveOf failed (.write 0x00008 32 1) = .write .cmd 1 ∧ failed.busy = false) ∧
    (moveOf (ready 1 0 0 []) (.write 0x00008 32 2) = .write .cmd 2 ∧ (ready 1 0 0 []).busy = true) ∧
    moveOf failed .reset = .reset ∧ moveOf failed (.write 0x00014 32 0) = .write .errInfo 0 ∧
    (∀ e ∈ [Event.write 0x00008 32 1, .reset, .write 0x00014 32 0], ∃ t, step { failed with events := [e] } = .next t) ∧
    ∀ s ∈ [ready 6 0 0 [], ready 3 1 32 []], ∃ t, step { s with events := [.engine] } = .next t :=
  ⟨by decide, ⟨by decide, by decide, _, rfl⟩, by decide, by decide, by decide, by decide,
    by simp only [List.forall_mem_cons]; exact ⟨⟨_, rfl⟩, ⟨_, rfl⟩, ⟨_, rfl⟩, by simp⟩,
    by simp only [List.forall_mem_cons]; exact ⟨⟨_, rfl⟩, ⟨_, rfl⟩, by simp⟩⟩

theorem witness_HostRegistersChangeOnlyByHostWrites :
    moveOf State.reset (.write 0x00000 32 1) = .write .ctrl 1 ∧ moveOf State.reset (.write 0x0000C 32 9) = .write .addr 9 ∧
    moveOf State.reset (.write 0x00010 32 9) = .write .srcLen 9 ∧
    (∃ t, step { State.reset with events := [.write 0x00000 32 1] } = .next t) ∧
    (∃ t, step { State.reset with events := [.write 0x0000C 32 9] } = .next t) ∧
    ∃ t, step { State.reset with events := [.write 0x00010 32 9] } = .next t :=
  ⟨by decide, by decide, by decide, ⟨_, rfl⟩, ⟨_, rfl⟩, ⟨_, rfl⟩⟩

theorem witness_ResultsChangeOnlyInCompletionOrReset :
    ∃ s t : State, step s = .next t ∧ nextMove s ≠ .complete ∧ nextMove s ≠ .reset ∧ s.palCount ≠ 0#5 :=
  ⟨{ ready16 1 0 0 [] with events := [.write 0x00018 32 0] }, _, rfl, by decide⟩

theorem witness_PaletteChangesOnlyByPloadPclrReset :
    ∃ s t : State, step s = .next t ∧ (t.pal ≠ s.pal ∨ t.palCount ≠ s.palCount ∨ t.palOff ≠ s.palOff) :=
  ⟨ready16 2 0 0 [], _, rfl, .inr (.inl (by decide))⟩

theorem witness_SourceAndCapacityAreTheHosts :
    ∃ s t : State, step s = .next t ∧ (∀ a b rest, s.events ≠ .source a b :: rest) ∧ s.src ≠ [] :=
  ⟨ready 3 0 32 [1], _, rfl, by simp [ready, State.reset], by decide⟩

/-- The first and last byte of the window, the bytes just outside it, the byte that is there, an idle engine, and a BUSY engine with
an illegal word and with NOP. -/
theorem witness_SourceIsStableWhileACommandReadsIt :
    (∀ a ∈ [5#32, 36#32], (ready 3 5 100 []).latch.addr.toNat ≤ a.toNat ∧ a.toNat < (ready 3 5 100 []).latch.addr.toNat + 32 ∧
      srcRead (ready 3 5 100 []) a.toNat ≠ 1 ∧ srcRead (ready 3 5 100 []) a.toNat = 0) ∧
    (∀ a ∈ [4#32, 37#32], ¬ ((ready 3 5 100 []).latch.addr.toNat ≤ a.toNat ∧ a.toNat < (ready 3 5 100 []).latch.addr.toNat + 32)) ∧
    ((ready 3 5 100 []).busy = true ∧ decode (ready 3 5 100 []).latch.cmd = .ok .tunpk ∧ sourceNeed .tunpk = some 32 ∧
      Memory.wf (ready 3 5 100 []).src = true) ∧
    (∃ s : State, s.events = [.source 36 1] ∧ s.busy = true) ∧
    (∃ s : State, s.events = [.source 36 1] ∧ s.busy = false ∧ Memory.wf s.src = true) ∧
    (∃ s : State, s.events = [.source 36 1] ∧ s.busy = true ∧ decode s.latch.cmd = .error .reservedOpcode) ∧
    ∃ s : State, s.events = [.source 36 1] ∧ s.busy = true ∧ decode s.latch.cmd = .ok .nop ∧ sourceNeed .nop = none :=
  ⟨by rw [List.forall_mem_cons, List.forall_mem_singleton]; decide, by rw [List.forall_mem_cons, List.forall_mem_singleton]; decide,
    by decide, ⟨{ ready 3 5 100 [] with events := [.source 36 1] }, by decide⟩,
    ⟨{ State.reset with events := [.source 36 1] }, by decide⟩, ⟨{ ready 6 5 100 [] with events := [.source 36 1] }, by decide⟩,
    { ready 0 5 100 [] with events := [.source 36 1] }, by decide⟩

/-- States that differ in palette entries while the palette is empty, in frame-buffer entries past the image, and in L while idle. -/
theorem witness_UnspecifiedStorageIsNeverObserved :
    ∃ s t : State, ObsEq s t ∧ s.pal ≠ t.pal ∧ s.fb ≠ t.fb ∧ s.latch ≠ t.latch :=
  ⟨State.reset, { State.reset with pal := ramp, fb := [Rgb.black], latch := ⟨1, 2, 3, true⟩ },
    ⟨rfl, fun h => absurd rfl h, fun k hk => absurd hk (Nat.not_lt_zero k), fun h => by cases h⟩, by decide, by decide, by decide⟩

/-- A busy engine behind one host read. -/
theorem witness_AcceptedCommandsComplete :
    ∃ s : State, s.busy = true ∧ s.events.length = 1 ∧ (∀ e ∈ s.events, e ≠ .reset) ∧
      ∀ n ≤ s.events.length + 1, ∃ t, reaches n s t :=
  ⟨{ ready 0 0 0 [] with events := [.read 0x00004 32] }, by decide, by decide, by decide, fun n hn => by
    have hn : n ≤ 2 := hn
    interval_cases n <;> exact ⟨_, rfl⟩⟩

/-- A machine whose next input is the host's turn, with one action. -/
def hostDoes (op : HostInstr) (s : State) : State := { s with events := [.host], host := ⟨[op], 0, [], [], [], false⟩ }

/-- The largest value that fits, the smallest that does not (to ADDR, and as a source length), a result register while BUSY and
while not. -/
theorem witness_HostProgramAccessesAreMmioAccesses :
    (∃ s : State, s.fbMaxPixels ≤ 65536 ∧ regExists s .addr = true ∧ s.events = [.host] ∧
      s.host.program[s.host.pc]? = some (.wr .addr (.lit 0xFFFFFFFF)) ∧ HostExpr.eval s.host (.lit 0xFFFFFFFF) < 2 ^ 32) ∧
    (∃ s : State, s.host.program[s.host.pc]? = some (.wr .addr (.lit 0x100000000)) ∧ 2 ^ 32 ≤ HostExpr.eval s.host (.lit 0x100000000) ∧
      Reg.addr ≠ .srcLen) ∧
    (∃ s : State, s.host.program[s.host.pc]? = some (.wr .srcLen (.lit 0x100000000))) ∧
    (∃ s : State, s.host.program[s.host.pc]? = some (.rd (.pal 15) 4) ∧ s.busy = true ∧ Reg.isResult (.pal 15) = true ∧
      cellsWf 0 s.host.vars = true) ∧
    ∃ s : State, regExists s (.pal 15) = true ∧ s.events = [.host] ∧
      s.host.program[s.host.pc]? = some (.rd (.pal 15) 4) ∧ s.busy = false ∧ cellsWf 0 s.host.vars = true :=
  ⟨⟨hostDoes (.wr .addr (.lit 0xFFFFFFFF)) State.reset, by decide⟩, ⟨hostDoes (.wr .addr (.lit 0x100000000)) State.reset, by decide⟩,
    ⟨hostDoes (.wr .srcLen (.lit 0x100000000)) State.reset, by decide⟩, ⟨hostDoes (.rd (.pal 15) 4) (ready 1 0 0 []), by decide⟩,
    hostDoes (.rd (.pal 15) 4) State.reset, by decide⟩

/-- The last offsets that fit, one past each, no sprites, a grid side of 0 and of 256, a running program; and searches to run, of no
sprite and of two. -/
theorem witness_SearchIsIssuedOnlyInRange :
    (0xFFFFFFDF + (2 - 1) * 32 * 1 * 1 ≤ 2 ^ 32 - 1) ∧ ¬ (0xFFFFFFE0 + (2 - 1) * 32 * 1 * 1 ≤ 2 ^ 32 - 1) ∧
    (0xFFFFFFFF ≤ 2 ^ 32 - 1) ∧ ¬ (0x100000000 ≤ 2 ^ 32 - 1) ∧
    ¬ (1 ≤ 0 ∧ 0 ≤ 255 ∧ 1 ≤ 1 ∧ 1 ≤ 255) ∧ ¬ (1 ≤ 256 ∧ 256 ≤ 255 ∧ 1 ≤ 1 ∧ 1 ≤ 255) ∧
    State.reset.host.program.length ≤ State.reset.host.pc ∧
    (∃ s : State, s.events = [.search 0xFFFFFFDF 1 1 0xFFFFFFFF 2] ∧ s.host.program.length ≤ s.host.pc) ∧
    (∃ s : State, s.events = [.search 0 1 1 0 1] ∧ s.host.pc < s.host.program.length) ∧
    ∀ count ∈ [0, 2], ∃ s : State, s.events = [.search 32 (1#8).toNat (255#8).toNat 0 count] ∧ s.host.program.length ≤ s.host.pc ∧
      s.busy = false ∧ s.fbMaxPixels ≤ 65536 ∧ 1#8 ≠ 0#8 ∧ 255#8 ≠ 0#8 ∧ 0 ≤ 2 ^ 32 - 1 ∧
      (count = 0 ∨ 32 + (count - 1) * 32 * (1#8).toNat * (255#8).toNat ≤ 2 ^ 32 - 1) :=
  ⟨by decide, by decide, by decide, by decide, by decide, by decide, by decide,
    ⟨{ State.reset with events := [.search 0xFFFFFFDF 1 1 0xFFFFFFFF 2] }, by decide⟩,
    ⟨{ State.reset with events := [.search 0 1 1 0 1], host := ⟨[.goto 0], 0, [], [], [], false⟩ }, by decide⟩,
    fun count _ => ⟨{ State.reset with events := [.search 32 1 255 0 count] }, rfl, Nat.le_refl _, rfl, Nat.le_refl _, by decide, by decide,
      by decide, by simp_all; omega⟩⟩

/-- A SEARCH of one sprite of one tile. -/
def oneSearch : List HostInstr := searchProgram 0 1#8 1#8 0 1

/-- The contexts of a SEARCH at its n-th action, its names not yet given a value. -/
def searchAt (n : Nat) : HostCtx := ⟨oneSearch, n, [], [], [], true⟩

/-- A SEARCH's protection (R237): not before its first action, at its first access after it, at the last FB read, and no longer once
that read is made. -/
theorem test_search_protected_to_last_fb_read :
    (searchAt 113).program[113]? = some (.rd (.fb 63) (HostVar.fb 63)) ∧
    (searchAt 0).inSearch = false ∧ (searchAt 1).inSearch = true ∧ (searchAt 113).inSearch = true ∧ (searchAt 114).inSearch = false :=
  ⟨rfl, by decide +kernel⟩

/-- The first and the last FB read and the last record of a SEARCH; accesses to ADDR, CMD and the last result register just after the
first action and at the last FB read; and the same outside the protection: no SEARCH, before the first action, after the last FB read. -/
theorem witness_SearchIsNotInterleaved :
    (∃ c : HostCtx, c.program = searchProgram 0 1#8 1#8 0 1 ∧ c.searching = true ∧
      c.program[c.pc]? = some (.rd (.fb 0) (HostVar.fb 0))) ∧
    (∃ c : HostCtx, c.program = searchProgram 0 1#8 1#8 0 1 ∧ c.program[c.pc]? = some .appendRecord ∧ cellsWf 0 c.vars = true ∧
      c.get HostVar.i + 1 = 1) ∧
    (∀ n ∈ [1, 113],
      ∀ e ∈ [Event.read (BitVec.ofNat 20 (Reg.offset (.fb 65535))) 32, .write (BitVec.ofNat 20 (Reg.offset .addr)) 32 0,
        .write (BitVec.ofNat 20 (Reg.offset .cmd)) 32 1],
      ∃ s : State, s.fbMaxPixels ≤ 65536 ∧ regExists s (.fb 65535) = true ∧ Reg.isResult (.fb 65535) = true ∧
        s.host.program = searchProgram 0 1#8 1#8 0 1 ∧ s.host.searching = true ∧ s.host.pc = n ∧ 0 < s.host.pc ∧ s.host.accessComes ∧
        s.events = [e]) ∧
    ∀ c ∈ [{ searchAt 1 with searching := false }, searchAt 0, searchAt 114],
      ∀ e ∈ [Event.read (BitVec.ofNat 20 (Reg.offset (.fb 65535))) 32, .write (BitVec.ofNat 20 (Reg.offset .cmd)) 32 1],
      ∃ s : State, s.fbMaxPixels ≤ 65536 ∧ regExists s (.fb 65535) = true ∧
        (s.host.searching = false ∨ s.host.pc = 0 ∨ ¬ s.host.accessComes) ∧ s.host = c ∧ s.events = [e] := by
  refine ⟨⟨searchAt 50, rfl, rfl, rfl⟩, ⟨searchAt 114, rfl, rfl, rfl, rfl⟩, fun n hn e _ => ?_, fun c hc e _ => ?_⟩
  · refine ⟨{ State.reset with host := searchAt n, events := [e] }, Nat.le_refl _, rfl, rfl, rfl, rfl, rfl, ?_, ?_, rfl⟩ <;>
      simp only [List.mem_cons, List.not_mem_nil, or_false] at hn <;> rcases hn with rfl | rfl
    · exact Nat.one_pos
    · exact Nat.succ_pos 112
    · exact ⟨0, _, rfl, .cmd, .inl ⟨_, rfl⟩⟩
    · exact ⟨0, _, rfl, .fb 63, .inr ⟨_, rfl⟩⟩
  · refine ⟨{ State.reset with host := c, events := [e] }, Nat.le_refl _, rfl, ?_, rfl, rfl⟩
    simp only [List.mem_cons, List.not_mem_nil, or_false] at hc
    rcases hc with rfl | rfl | rfl
    · exact .inl rfl
    · exact .inr (.inl rfl)
    · exact .inr (.inr fun h => absurd ((accessComes_iff (c := searchAt 114) rfl).1 h) (by decide +kernel))

end Sys2Proof.Tests
end

section
/-! PROOFS. Registers of spec/10_state.md: the packing of TIDX_ROW (R52), the reserved ranges (R54), and the rules on STATUS.BUSY
(R35) and STATUS.OVR (R37) over every step. -/

namespace Sys2Proof.Machine

/-! ## TIDX_ROW (R52) -/

/-- Nibble `c` of a packed row is its column `c`. -/
theorem packRow_column (row : Vector Nibble 8) (c : Fin 8) : (packRow row).extractLsb' (4 * c.val) 4 = row[c] := by
  refine BitVec.eq_of_toNat_eq ?_
  rw [toNat_field, packRow_toNat]
  fin_cases c <;> simp <;> omega

/-- Settles O23: a field of the packed row is read off the row's number, base 16. -/
theorem tileRowRegisterPacksItsColumns : Obligations.TileRowRegisterPacksItsColumns := by
  intro s r c
  refine ⟨packRow_column s.tidx[r] c, fun _ => rfl, rfl, ?_⟩
  fin_cases r <;> decide

/-! ## Reserved offsets (R33, R54) -/

/-- The ranges R33 marks reserved, under FB_MAX_PIXELS = `cap`. -/
def reservedOffset (cap off : Nat) : Prop :=
  0x00034 ≤ off ∧ off ≤ 0x0003C ∨ 0x000A0 ≤ off ∧ off ≤ 0x0FFFC ∨ 0x10000 + 4 * cap ≤ off

theorem lowReg_reserved {n : Nat} (h : 13 ≤ n) : lowReg n = none := List.getElem?_eq_none h

/-- The register map answers no register in a reserved range. -/
theorem regAt_reserved {cap off : Nat} (h : reservedOffset cap off) : regAt cap off = none := by
  unfold reservedOffset at h
  unfold regAt
  split
  · exact lowReg_reserved (by omega)
  · rw [if_neg (by omega), if_neg (by omega)]
    split
    · rfl
    · rw [if_neg (by omega)]

/-- An access to an offset with no register never interleaves with a SEARCH (R237 protects registers). -/
theorem interleaves_of_regAt_none {s : State} {off : Nat} (h : regAt s.fbMaxPixels off = none) : interleaves s off = false := by
  simp [interleaves, h]

theorem inContract_window {off : BitVec 20} (h : off.toNat % 4 = 0) : inContract off.toNat 32 = true :=
  decide_eq_true ⟨rfl, h, off.isLt⟩

/-- A read of an aligned offset with no register answers 0 and has no other effect. -/
theorem rawRead_of_regAt_none {s : State} {off : BitVec 20} (ha : off.toNat % 4 = 0) (h : regAt s.fbMaxPixels off.toNat = none) :
    rawRead off.toNat 32 s = .next { s with readData := 0#32 } := by
  simp [rawRead, interleaves_of_regAt_none h, busRead, inContract_window ha, h]

/-- A write to an aligned offset with no register is ignored. -/
theorem rawWrite_of_regAt_none {s : State} {off : BitVec 20} (ha : off.toNat % 4 = 0) (h : regAt s.fbMaxPixels off.toNat = none)
    (v : Word) : rawWrite off.toNat 32 v s = .next s := by
  simp [rawWrite, interleaves_of_regAt_none h, busWrite, inContract_window ha, h]

/-- A step with an input to come is that input's move. -/
theorem step_event {s : State} {e : Event} {rest : List Event} (h : s.events = e :: rest) :
    step s = perform e { s with events := rest } := by
  simp only [step, takeTurn, h]

/-- Settles O42: a reserved offset names no register, so it is in no SEARCH's protection and the access has no register to reach. -/
theorem reservedOffsetsReadZeroAndIgnoreWrites : Obligations.ReservedOffsetsReadZeroAndIgnoreWrites := by
  intro s off rest ha hr
  have hnone : regAt s.fbMaxPixels off.toNat = none := regAt_reserved hr
  refine ⟨fun he => ?_, fun v he => ?_⟩
  · rw [step_event he]
    exact rawRead_of_regAt_none (s := { s with events := rest }) ha hnone
  · rw [step_event he]
    exact rawWrite_of_regAt_none (s := { s with events := rest }) ha hnone v

/-! ## STATUS.BUSY and STATUS.OVR (R35, R37) -/

/-- After a CMD write BUSY is 1, whether the write was accepted or dropped (43_control.md R211, R212). -/
@[simp] theorem writeCmd_busy (v : Word) (s : State) : (writeCmd v s).busy = true := by
  unfold writeCmd
  split
  · assumption
  · rfl

/-- A CMD write sets OVR exactly when it is dropped (43_control.md R211, R212). -/
@[simp] theorem writeCmd_ovr (v : Word) (s : State) : (writeCmd v s).ovr = (s.ovr || s.busy) := by
  unfold writeCmd
  split <;> simp [*]

/-- Bit 2 of a word, from its number. -/
theorem getLsbD_two (v : Word) : v.getLsbD 2 = (v.toNat / 4 % 2 == 1) := by
  rw [BitVec.getLsbD, Nat.testBit_eq_decide_div_mod_eq]
  rfl

theorem Quiet.flags {s t : State} (q : Quiet s t) : t.busy = s.busy ∧ t.done = s.done ∧ t.ovr = s.ovr := by
  rw [q.same]
  exact ⟨rfl, rfl, rfl⟩

/-- What each kind of move does to the flags BUSY, DONE and OVR; a host write, to a state with the flags of the start. -/
theorem step_flags {s t : State} (h : step s = .next t) :
    (nextMove s = .complete ∧ t.busy = false ∧ t.done = true ∧ t.ovr = s.ovr) ∨
    (nextMove s = .reset ∧ t.busy = false ∧ t.done = false ∧ t.ovr = false) ∨
    (∃ r v u, nextMove s = .write r v ∧ (u.busy = s.busy ∧ u.done = s.done ∧ u.ovr = s.ovr) ∧ t = writeReg r v u) ∨
    (nextMove s = .other ∧ t.busy = s.busy ∧ t.done = s.done ∧ t.ovr = s.ovr) := by
  obtain ⟨hm, -, ⟨i, -, he⟩ | ⟨e, -, rfl⟩⟩ | ⟨hm, rfl⟩ | ⟨r, v, u, hm, q, rfl⟩ | ⟨hm, q⟩ | ⟨hm, a, b, -, rfl⟩ := step_cases h
  · obtain ⟨hbusy, hdone⟩ := exec_completes he
    obtain ⟨-, hovr, -⟩ := exec_frame he
    exact .inl ⟨hm, hbusy, hdone, hovr⟩
  · exact .inl ⟨hm, rfl, rfl, rfl⟩
  · exact .inr (.inl ⟨hm, rfl, rfl, rfl⟩)
  · exact .inr (.inr (.inl ⟨r, v, u, hm, q.flags, rfl⟩))
  · exact .inr (.inr (.inr ⟨hm, q.flags⟩))
  · exact .inr (.inr (.inr ⟨hm, rfl, rfl, rfl⟩))

/-- Settles O47: a completion and a reset clear BUSY, and of the host writes only the one to CMD sets it. -/
theorem busyChangesOnlyAsTheRuleSays : Obligations.BusyChangesOnlyAsTheRuleSays := by
  refine ⟨fun s => ?_, rfl, fun s t h => ?_⟩
  · have := s.busy.toNat_lt
    rw [regValue, statusWord_toNat]
    omega
  · obtain ⟨hm, hb, -⟩ | ⟨hm, hb, -⟩ | ⟨r, v, u, hm, ⟨hb, -⟩, rfl⟩ | ⟨hm, hb, -⟩ := step_flags h <;> rw [hm]
    · exact hb
    · exact hb
    · cases r with
      | cmd => exact writeCmd_busy v u
      | _ => exact hb
    · exact hb

/-- Settles O49: only a reset and the host writes to CMD and STATUS reach OVR. -/
theorem overrunChangesOnlyAsTheRuleSays : Obligations.OverrunChangesOnlyAsTheRuleSays := by
  refine ⟨fun s => ?_, rfl, fun s t h => ?_⟩
  · have := s.busy.toNat_lt
    have := s.done.toNat_lt
    have := s.ovr.toNat_lt
    rw [regValue, statusWord_toNat]
    omega
  · obtain ⟨hm, -, -, ho⟩ | ⟨hm, -, -, ho⟩ | ⟨r, v, u, hm, ⟨hb, -, ho⟩, rfl⟩ | ⟨hm, -, -, ho⟩ := step_flags h <;> rw [hm]
    · exact ho
    · exact ho
    · cases r with
      | cmd => rw [writeReg, writeCmd_ovr, ho, hb]
      | status => rw [writeReg, flagsWritten_ovr, ho, getLsbD_two]
      | _ => exact ho
    · exact ho

end Sys2Proof.Machine
end

section
/-! PROOFS. The interface contract of spec/20_memory.md R91: what an access of another width or alignment is refused with. -/

namespace Sys2Proof.Machine

/-! ## Accesses outside the contract (R91) -/

theorem inContract_eq_false {off width : Nat} (h : width ≠ 32 ∨ off % 4 ≠ 0) : inContract off width = false :=
  decide_eq_false (by omega)

/-- Outside a SEARCH no access interleaves (R237). -/
theorem interleaves_of_not_inSearch {s : State} (h : s.host.inSearch = false) (off : Nat) : interleaves s off = false := by
  simp [interleaves, h]

/-- The refusal of an access outside the contract: a SEARCH's protection (R237) is checked before the contract (R91). -/
def outsideRefusal (s : State) (off width : Nat) : Refusal :=
  if interleaves s off then .searchInterleaved else .accessOutsideContract off width

theorem outsideRefusal_of_not_inSearch {s : State} (h : s.host.inSearch = false) (off width : Nat) :
    outsideRefusal s off width = .accessOutsideContract off width := by
  simp [outsideRefusal, interleaves_of_not_inSearch h]

theorem rawRead_outside {off width : Nat} (h : inContract off width = false) (s : State) :
    rawRead off width s = .refused (outsideRefusal s off width) := by
  unfold rawRead outsideRefusal
  split
  · rfl
  · simp [busRead, h]

theorem rawWrite_outside {off width : Nat} (h : inContract off width = false) (v : Word) (s : State) :
    rawWrite off width v s = .refused (outsideRefusal s off width) := by
  unfold rawWrite outsideRefusal
  split
  · rfl
  · simp [busWrite, h]

/-- Settles O43: a read and a write outside the contract meet the same refusal, which outside a SEARCH names the access. -/
theorem accessesOutsideTheContractAreRefused : Obligations.AccessesOutsideTheContractAreRefused := by
  intro s off width v rest hout he
  have hc : inContract off.toNat width = false := inContract_eq_false hout
  refine ⟨outsideRefusal { s with events := rest } off.toNat width, ?_, fun hs => outsideRefusal_of_not_inSearch hs _ _⟩
  obtain he | he := he <;> rw [step_event he]
  · exact rawRead_outside hc _
  · exact rawWrite_outside hc v _

end Sys2Proof.Machine
end

section
/-! PROOFS. The decoder of spec/30_encoding.md R115 over the number of the word: each field test as an equation of numbers, each
answer as an option. -/

namespace Sys2Proof

section
variable (v : Word)

/-! ## The fields' tests as equations of numbers (R111) -/

theorem opField_eq_ofNat_iff {n : Nat} (hn : n < 16) : opField v = BitVec.ofNat 4 n ↔ v.toNat % 16 = n := by
  rw [BitVec.toNat_eq, opField_toNat, BitVec.toNat_ofNat, Nat.mod_eq_of_lt hn]

theorem wField_eq_ofNat : wField v = BitVec.ofNat 8 (v.toNat / 256 % 256) := by
  rw [← wField_toNat, BitVec.ofNat_toNat, BitVec.setWidth_eq]

theorem hField_eq_ofNat : hField v = BitVec.ofNat 8 (v.toNat / 65536 % 256) := by
  rw [← hField_toNat, BitVec.ofNat_toNat, BitVec.setWidth_eq]

theorem wField_eq_zero_iff : wField v = 0#8 ↔ v.toNat / 256 % 256 = 0 := by
  rw [BitVec.toNat_eq, wField_toNat, BitVec.toNat_ofNat]

theorem hField_eq_zero_iff : hField v = 0#8 ↔ v.toNat / 65536 % 256 = 0 := by
  rw [BitVec.toNat_eq, hField_toNat, BitVec.toNat_ofNat]

theorem rsv0Field_eq_zero_iff : rsv0Field v = 0#4 ↔ v.toNat / 16 % 16 = 0 := by
  rw [BitVec.toNat_eq, rsv0Field_toNat, BitVec.toNat_ofNat]

/-- RSV1 is the word's top field, so its number needs no remainder. -/
theorem rsv1Field_eq_zero_iff : rsv1Field v = 0#8 ↔ v.toNat / 16777216 = 0 := by
  have hv : v.toNat / 16777216 < 256 := Nat.div_lt_of_lt_mul v.isLt
  rw [BitVec.toNat_eq, rsv1Field_toNat, BitVec.toNat_ofNat, Nat.mod_eq_of_lt hv]

/-- A word with a reserved field set, by its number. -/
theorem reserved_iff :
    (rsv0Field v ≠ 0#4 ∨ rsv1Field v ≠ 0#8) ↔ (v.toNat / 16 % 16 ≠ 0 ∨ v.toNat / 16777216 ≠ 0) :=
  or_congr (rsv0Field_eq_zero_iff v).not (rsv1Field_eq_zero_iff v).not

/-! ## The decoder's answers as options (R115) -/

theorem toOption_decodePlain (i : Instr) :
    (decodePlain i v).toOption = if v.toNat / 256 % 256 ≠ 0 ∨ v.toNat / 65536 % 256 ≠ 0 then none else some i := by
  simp only [decodePlain, ne_eq, wField_eq_zero_iff, hField_eq_zero_iff]
  split <;> rfl

theorem toOption_decodeGrid (mk : BitVec 8 → BitVec 8 → Instr) :
    (decodeGrid mk v).toOption =
      if v.toNat / 256 % 256 = 0 ∨ v.toNat / 65536 % 256 = 0 then none
      else some (mk (BitVec.ofNat 8 (v.toNat / 256 % 256)) (BitVec.ofNat 8 (v.toNat / 65536 % 256))) := by
  simp only [decodeGrid, wField_eq_zero_iff, hField_eq_zero_iff, ← wField_eq_ofNat, ← hField_eq_ofNat]
  split <;> rfl

end

theorem decode_of_reserved {v : Word} (h : v.toNat / 16 % 16 ≠ 0 ∨ v.toNat / 16777216 ≠ 0) :
    decode v = .error .reservedBits :=
  if_pos ((reserved_iff v).2 h)

/-- With zero reserved fields the decoder's answer turns on the number of OP. -/
theorem decode_of_not_reserved {v : Word} (h : ¬ (v.toNat / 16 % 16 ≠ 0 ∨ v.toNat / 16777216 ≠ 0)) :
    decode v =
      if v.toNat % 16 = 0 then decodePlain .nop v
      else if v.toNat % 16 = 1 then decodePlain .pload v
      else if v.toNat % 16 = 2 then decodePlain .pclr v
      else if v.toNat % 16 = 3 then decodePlain .tunpk v
      else if v.toNat % 16 = 4 then decodeGrid .asm v
      else if v.toNat % 16 = 5 then decodeGrid .phold v
      else .error .reservedOpcode := by
  rw [decode, if_neg (mt (reserved_iff v).1 h)]
  simp only [opField_eq_ofNat_iff, Nat.reduceLT]

/-- Settles O3: the reserved fields are tested first, then OP's number picks the command, whose own grid test is the pseudocode's. -/
theorem decodeFollowsItsPseudocode : Obligations.DecodeFollowsItsPseudocode := by
  intro v
  split
  case isTrue hr => rw [decode_of_reserved hr]; rfl
  case isFalse hr =>
    rw [decode_of_not_reserved hr]
    generalize v.toNat % 16 = op
    match op with
    | 0 | 1 | 2 | 3 => exact toOption_decodePlain v _
    | 4 | 5 => exact toOption_decodeGrid v _
    | _ + 6 => rfl

end Sys2Proof
end

section
/-! PROOFS. The words of spec/30_encoding.md R115 that decode to no command: an accepted word is the word of its command, so a word
whose OP names one fixed word is illegal when it is another. -/

namespace Sys2Proof

/-- OP of a command's word is the command's own (R114). -/
@[simp] theorem opField_encode (i : Instr) : opField (encode i) = Laws.opOf i := by
  cases i with
  | asm w h => exact (Laws.EncodeFields.asm w h).1
  | phold w h => exact (Laws.EncodeFields.phold w h).1
  | _ => rfl

/-- An accepted word is the one word of its command (R118). -/
theorem encode_of_decode {v : Word} {i : Instr} (h : decode v = .ok i) : encode i = v := by
  obtain ⟨h0, h1, hcmd⟩ := decode_ok h
  rw [← commandWord_fields v h0 h1]
  obtain ⟨ho, rfl, hw, hh⟩ | ⟨ho, rfl, hw, hh⟩ | ⟨ho, rfl, hw, hh⟩ | ⟨ho, rfl, hw, hh⟩ | ⟨ho, rfl, -⟩ | ⟨ho, rfl, -⟩ := hcmd
  · rw [ho, hw, hh]; rfl
  · rw [ho, hw, hh]; rfl
  · rw [ho, hw, hh]; rfl
  · rw [ho, hw, hh]; rfl
  · rw [ho]; rfl
  · rw [ho]; rfl

/-- When one command alone has its OP, every other word with that OP is illegal. -/
theorem decode_error_of_opField {v : Word} {i : Instr} (hi : ∀ j, Laws.opOf j = Laws.opOf i → j = i)
    (hop : opField v = Laws.opOf i) (hv : v ≠ encode i) : ∃ r, decode v = .error r := by
  obtain ⟨j, hj⟩ | hr := decode_total v
  · have he : encode j = v := encode_of_decode hj
    have hji : j = i := hi j (by rw [← opField_encode, he, hop])
    exact absurd (hji ▸ he.symm) hv
  · exact hr

end Sys2Proof
end

section
/-! PROOFS. The palette of spec/40_palette.md: PLOAD's errors (R144), PCLR (R146, R147), and what changes the palette lookup RAM
(R149). -/

namespace Sys2Proof.Machine

/-! ## PLOAD's errors and PCLR (R144, R146, R147) -/

/-- Settles O19: PLOAD is a source request of 32 bytes, whose two failing ends write the flags and the port's trace only. -/
theorem ploadErrorsKeepThePalette : Obligations.PloadErrorsKeepThePalette := fun _ =>
  ⟨fun hoff => congrArg Host.Outcome.next (withSource_unavailable hoff),
    fun hon hshort => congrArg Host.Outcome.next (withSource_short hon (Nat.succ_ne_zero 31) hshort)⟩

theorem eq_pclr_of_opOf {i : Instr} (h : Laws.opOf i = Laws.opOf .pclr) : i = .pclr := by
  cases i with
  | pclr => rfl
  | _ => simp [Laws.opOf] at h

/-- An empty palette reads 0 at every entry, whatever the entries hold (10_state.md R51). -/
theorem regValue_pal_of_empty {s : State} (h : s.palCount = 0#5) (i : Fin 16) : regValue s (.pal i) = 0#32 :=
  if_neg (by rw [h]; decide)

/-- Settles O20: no other command has PCLR's OP, and the zero count is what hides the kept entries. -/
theorem pclrEmptiesThePalette : Obligations.PclrEmptiesThePalette := by
  refine ⟨rfl, fun v hop hv => ?_, fun s => ⟨_, rfl, rfl, rfl, rfl, regValue_pal_of_empty rfl⟩⟩
  exact decode_error_of_opField (fun _ => eq_pclr_of_opOf) ((opField_eq_ofNat_iff v (by decide)).2 hop) hv

/-! ## What changes the palette lookup RAM (R149) -/

/-- The palette lookup RAM with its registers PAL_COUNT and PAL_OFF. -/
def paletteOf (s : State) : Vector Rgb 16 × BitVec 5 × Word := (s.pal, s.palCount, s.palOff)

theorem paletteOf_eq_iff {s t : State} :
    paletteOf t = paletteOf s ↔ t.pal = s.pal ∧ t.palCount = s.palCount ∧ t.palOff = s.palOff := by
  simp [paletteOf]

theorem Quiet.keeps_palette {s t : State} (q : Quiet s t) : paletteOf t = paletteOf s := by
  rw [q.same]
  rfl

/-- No host write reaches the palette (20_memory.md R93). -/
theorem writeReg_keeps_palette (r : Reg) (v : Word) (s : State) : paletteOf (writeReg r v s) = paletteOf s := by
  obtain ⟨-, h⟩ | ⟨-, h⟩ | ⟨-, -, h⟩ | ⟨-, -, h⟩ | ⟨-, h⟩ | ⟨-, h⟩ | ⟨-, h⟩ := writeReg_cases r v s <;> rw [h] <;> rfl

/-- A command keeps the palette unless it is PLOAD or PCLR. -/
theorem exec_keeps_palette {i : Instr} {s t : State} (h : exec i s = .next t) :
    paletteOf t = paletteOf s ∨ i = .pload ∨ i = .pclr := by
  obtain ⟨_, _, _, rfl⟩ | ⟨-, rfl⟩ | ⟨hi, -⟩ | ⟨hi, -⟩ | ⟨-, rfl⟩ | ⟨_, _, -, -, -, rfl⟩ | ⟨_, _, -, -, rfl⟩ := exec_cases h
  · exact .inl rfl
  · exact .inl rfl
  · exact .inr (.inl hi)
  · exact .inr (.inr hi)
  · exact .inl rfl
  · exact .inl rfl
  · exact .inl rfl

/-- A step keeps the palette unless it is a reset or the completion of PLOAD or PCLR. -/
theorem step_keeps_palette {s t : State} (h : step s = .next t) :
    paletteOf t = paletteOf s ∨ nextMove s = .reset ∨
      nextMove s = .complete ∧ (decode s.latch.cmd = .ok .pload ∨ decode s.latch.cmd = .ok .pclr) := by
  obtain ⟨hm, -, ⟨i, hd, he⟩ | ⟨_, -, rfl⟩⟩ | ⟨hm, -⟩ | ⟨r, v, u, -, q, rfl⟩ | ⟨-, q⟩ | ⟨-, _, _, -, rfl⟩ := step_cases h
  · obtain hk | rfl | rfl := exec_keeps_palette he
    · exact .inl hk
    · exact .inr (.inr ⟨hm, .inl hd⟩)
    · exact .inr (.inr ⟨hm, .inr hd⟩)
  · exact .inl rfl
  · exact .inr (.inl hm)
  · exact .inl ((writeReg_keeps_palette r v u).trans q.keeps_palette)
  · exact .inl q.keeps_palette
  · exact .inl rfl

/-- Settles O52: a step that changed one of the three parts is not one that keeps the palette. -/
theorem paletteChangesOnlyByPloadPclrReset : Obligations.PaletteChangesOnlyByPloadPclrReset := by
  intro s t h hne
  obtain hk | hmove := step_keeps_palette h
  · obtain ⟨hp, hc, ho⟩ := paletteOf_eq_iff.1 hk
    simp [hp, hc, ho] at hne
  · exact hmove

end Sys2Proof.Machine
end

section
/-! PROOFS. The tile unpacker of spec/41_tile_unpacker.md: TUNPK's errors (R164). -/

namespace Sys2Proof.Machine

/-- Settles O22: TUNPK checks its source before it unpacks, so a missing or short source ends the command with the flags, and the
port's trace once the length was checked; `loadTile`, the one write of TIDX, is not reached. -/
theorem tunpkErrorsKeepTheTile : Obligations.TunpkErrorsKeepTheTile := fun _ =>
  ⟨fun hoff => congrArg Host.Outcome.next (withSource_unavailable hoff),
    fun hon hshort => congrArg Host.Outcome.next (withSource_short hon (Nat.succ_ne_zero 31) hshort)⟩

end Sys2Proof.Machine
end

section
/-! PROOFS. The raster assembler of spec/42_raster_assembler.md: ASM's errors in the order of R254 (R187), and when FrameTooLarge is
raised (R188). -/

namespace Sys2Proof

/-- With OP = 4 the decoder tests the reserved fields and then ASM's grid (spec/30_encoding.md R115). -/
theorem decode_of_opField_asm {v : Word} (hop : opField v = 4#4) :
    decode v = if rsv0Field v ≠ 0#4 ∨ rsv1Field v ≠ 0#8 then .error .reservedBits else decodeGrid .asm v := by
  simp [decode, hop]

/-- An ASM word with a zero grid side or a reserved bit is illegal (spec/30_encoding.md R117). -/
theorem decode_error_of_asm_fields {v : Word} (hop : opField v = 4#4)
    (hbad : wField v = 0#8 ∨ hField v = 0#8 ∨ rsv0Field v ≠ 0#4 ∨ rsv1Field v ≠ 0#8) : ∃ r, decode v = .error r := by
  rw [decode_of_opField_asm hop]
  by_cases hrsv : rsv0Field v ≠ 0#4 ∨ rsv1Field v ≠ 0#8
  · exact ⟨.reservedBits, if_pos hrsv⟩
  · have hgrid : wField v = 0#8 ∨ hField v = 0#8 := (or_assoc.2 hbad).resolve_right hrsv
    exact ⟨.zeroGrid, (if_neg hrsv).trans (if_pos hgrid)⟩

end Sys2Proof

namespace Sys2Proof.Machine

theorem complete_of_decode_error {s : State} (hd : ∃ r, decode s.latch.cmd = .error r) :
    complete s = .next (completeIllegal s) := by
  obtain ⟨r, hr⟩ := hd
  rw [complete, hr]

/-! ## ASM's checks, one equation per branch (R187, R190) -/

section
variable {s : State} {w h : BitVec 8}

theorem gridBytes_ne_zero (hw : w ≠ 0#8) (hh : h ≠ 0#8) : gridBytes w h ≠ 0 :=
  Nat.mul_ne_zero (Nat.mul_ne_zero (by decide) (BitVec.toNat_ne.1 hw)) (BitVec.toNat_ne.1 hh)

theorem assembleFromPalette_empty (hp : s.palCount = 0#5) : assembleFromPalette w h s = raiseError .paletteEmpty 0 s := if_pos hp

theorem assembleFromPalette_loaded (hp : s.palCount ≠ 0#5) :
    assembleFromPalette w h s = withSource (gridBytes w h) .truncatedTileData (assemble w h) s := if_neg hp

theorem exec_asm_tooLarge (hc : s.fbMaxPixels < gridPixels w h) :
    exec (.asm w h) s = .next (raiseError .frameTooLarge (BitVec.ofNat 32 (gridPixels w h)) s) :=
  congrArg Host.Outcome.next (withCapacity_tooLarge hc)

theorem exec_asm_empty (hc : gridPixels w h ≤ s.fbMaxPixels) (hp : s.palCount = 0#5) :
    exec (.asm w h) s = .next (raiseError .paletteEmpty 0 s) :=
  congrArg Host.Outcome.next ((withCapacity_fits hc).trans (assembleFromPalette_empty hp))

/-- An ASM that fits and has a palette is a source request of its grid's bytes. -/
theorem exec_asm_loaded (hc : gridPixels w h ≤ s.fbMaxPixels) (hp : s.palCount ≠ 0#5) :
    exec (.asm w h) s = .next (withSource (gridBytes w h) .truncatedTileData (assemble w h) s) :=
  congrArg Host.Outcome.next ((withCapacity_fits hc).trans (assembleFromPalette_loaded hp))

end

/-- Settles O28: the illegal words end in `completeIllegal`; ASM's own checks are those of capacity, palette and source in turn,
and each error writes the flags, and the port's trace once the length was checked. -/
theorem asmErrorsInTheirOrder : Obligations.AsmErrorsInTheirOrder := by
  refine ⟨fun s hop hbad => complete_of_decode_error (decode_error_of_asm_fields hop hbad),
    fun s w h => ⟨exec_asm_tooLarge, exec_asm_empty, ?_, ?_⟩⟩
  · intro hc hp hoff
    rw [exec_asm_loaded hc hp, withSource_unavailable hoff]
    rfl
  · intro hc hp hon hw hh hshort
    rw [exec_asm_loaded hc hp, withSource_short hon (gridBytes_ne_zero hw hh) hshort]
    rfl

/-! ## FrameTooLarge (R188) -/

/-- A source request ends with the source's errors or with success. -/
theorem withSource_err_ne {short : ErrKind} (hs : short.code ≠ 6#4) (need : Nat) (use : State → State) (s : State) :
    (withSource need short use s).err ≠ 6#4 := by
  obtain ⟨-, e⟩ | ⟨-, -, e⟩ | ⟨-, -, e⟩ := withSource_cases need short use s <;> rw [e]
  · exact (by decide : ErrKind.code .sourceUnavailable ≠ 6#4)
  · exact hs
  · exact (by decide : 0#4 ≠ 6#4)

/-- No check of ASM after the capacity check raises FrameTooLarge, and neither does its success. -/
theorem assembleFromPalette_err_ne (w h : BitVec 8) (s : State) : (assembleFromPalette w h s).err ≠ 6#4 := by
  by_cases hp : s.palCount = 0#5
  · rw [assembleFromPalette_empty hp]
    exact (by decide : ErrKind.code .paletteEmpty ≠ 6#4)
  · rw [assembleFromPalette_loaded hp]
    exact withSource_err_ne (by decide) _ _ s

theorem placeholder_err_ne (w h : BitVec 8) (s : State) : (placeholder w h s).err ≠ 6#4 := by
  rw [placeholder, succeed_err]
  decide

/-- The capacity check raises FrameTooLarge exactly for a grid that does not fit, with the grid's pixels as info, when what it
guards never raises it. -/
theorem withCapacity_frameTooLarge_iff {w h : BitVec 8} {go : State → State} {s : State} (hgo : (go s).err ≠ 6#4) :
    ((withCapacity w h go s).err = 6#4 ↔ s.fbMaxPixels < gridPixels w h) ∧
      ((withCapacity w h go s).err = 6#4 → (withCapacity w h go s).errInfo.toNat = gridPixels w h) := by
  by_cases hc : s.fbMaxPixels < gridPixels w h
  · rw [withCapacity_tooLarge hc, raiseError_errInfo, BitVec.toNat_ofNat, Nat.mod_eq_of_lt (gridPixels_lt w h)]
    exact ⟨iff_of_true rfl hc, fun _ => rfl⟩
  · rw [withCapacity_fits (Nat.le_of_not_lt hc)]
    exact ⟨iff_of_false hgo hc, fun he => absurd he hgo⟩

theorem default_capacity_lt_gridPixels_iff (w h : BitVec 8) : 65536 < gridPixels w h ↔ 1024 < w.toNat * h.toNat := by
  rw [gridPixels, Nat.mul_assoc]
  omega

/-- ASM and PHOLD are one capacity check over a part that never raises FrameTooLarge. -/
theorem exec_grid_eq_withCapacity {i : Instr} {w h : BitVec 8} (hi : i = .asm w h ∨ i = .phold w h) (s : State) :
    ∃ go : State → State, exec i s = .next (withCapacity w h go s) ∧ (go s).err ≠ 6#4 := by
  obtain rfl | rfl := hi
  · exact ⟨assembleFromPalette w h, rfl, assembleFromPalette_err_ne w h s⟩
  · exact ⟨placeholder w h, rfl, placeholder_err_ne w h s⟩

/-- Settles O30: both commands begin with the capacity check, and only that check raises FrameTooLarge. -/
theorem frameTooLargeExactlyPastCapacity : Obligations.FrameTooLargeExactlyPastCapacity := by
  intro s w h i hi
  obtain ⟨go, he, hgo⟩ := exec_grid_eq_withCapacity hi s
  obtain ⟨hiff, hinfo⟩ := withCapacity_frameTooLarge_iff (w := w) (h := h) hgo
  refine ⟨_, he, hiff, hinfo, fun hcap => ?_⟩
  rw [hiff, hcap]
  exact default_capacity_lt_gridPixels_iff w h

end Sys2Proof.Machine
end

section
/-! PROOFS. The control of spec/43_control.md: a CMD write accepted or dropped (R211, R212), NOP (R214) and an illegal word
(R215). -/

namespace Sys2Proof.Machine

/-! ## A CMD write (R211, R212) -/

theorem writeCmd_idle {s : State} (h : s.busy = false) (v : Word) : writeCmd v s = accept v s := if_neg (by simp [h])

theorem writeCmd_inFlight {s : State} (h : s.busy = true) (v : Word) : writeCmd v s = { s with ovr := true } := if_pos h

/-- CMD stands at offset 8 under every capacity. -/
theorem busWrite_cmd (v : Word) (s : State) : busWrite 0x00008 32 v s = .next (writeCmd v s) := rfl

/-- Outside a SEARCH another context's write of CMD reaches the register. -/
theorem rawWrite_cmd {s : State} (hs : s.host.inSearch = false) (v : Word) : rawWrite 0x00008 32 v s = .next (writeCmd v s) := by
  rw [rawWrite, interleaves_of_not_inSearch hs]
  exact busWrite_cmd v s

theorem step_write_cmd {s : State} {v : Word} {rest : List Event} (hs : s.host.inSearch = false)
    (he : s.events = .write 0x00008 32 v :: rest) : step s = .next (writeCmd v { s with events := rest }) :=
  (step_event he).trans (rawWrite_cmd (s := { s with events := rest }) hs v)

/-- Settles O44: with BUSY = 0 the write that reaches CMD is `accept`. -/
theorem cmdWriteAcceptsWhenIdle : Obligations.CmdWriteAcceptsWhenIdle := by
  intro s v rest hb hs he
  rw [step_write_cmd hs he, writeCmd_idle (s := { s with events := rest }) hb]
  rfl

/-- Settles O45: with BUSY = 1 the write that reaches CMD sets OVR and no more. -/
theorem cmdWriteIsDroppedWhenBusy : Obligations.CmdWriteIsDroppedWhenBusy := by
  intro s v rest hb hs he
  rw [step_write_cmd hs he, writeCmd_inFlight (s := { s with events := rest }) hb]

/-! ## NOP (R214) -/

theorem eq_nop_of_opOf {i : Instr} (h : Laws.opOf i = Laws.opOf .nop) : i = .nop := by
  cases i with
  | nop => rfl
  | _ => simp [Laws.opOf] at h

/-- Settles O16: no other command has NOP's OP, and from reset its completion changes no register but STATUS. -/
theorem nopOnlyCompletes : Obligations.NopOnlyCompletes := by
  refine ⟨fun _ => rfl, rfl, fun v hop hv => ?_, _, rfl, rfl, fun r hr => ?_⟩
  · exact decode_error_of_opField (fun _ => eq_nop_of_opOf) ((opField_eq_ofNat_iff v (by decide)).2 hop) hv
  · cases r with
    | status => exact absurd rfl hr
    | _ => rfl

/-! ## An illegal word (R215) -/

/-- The engine's turn on an illegal word in flight is its completion. -/
theorem step_engine_illegal {s : State} {rest : List Event} {r : Illegal} (hb : s.busy = true)
    (he : s.events = .engine :: rest) (hd : decode s.latch.cmd = .error r) :
    step s = .next (completeIllegal { s with events := rest }) := by
  rw [step_event he]
  exact (if_pos hb).trans (complete_of_decode_error ⟨r, hd⟩)

/-- STATUS after IllegalCommand without an overrun: code 1 and DONE (10_state.md R39). -/
theorem statusWord_completeIllegal {s : State} (h : s.ovr = false) : statusWord (completeIllegal s) = 0x00000102 := by
  simp [statusWord, completeIllegal, ErrKind.code, h]

/-- Settles O8: the engine's turn is `completeIllegal`, also for the worked word 6, whose OP no command has. -/
theorem illegalWordReportsItself : Obligations.IllegalWordReportsItself := by
  refine ⟨fun s rest r hb he hd => step_engine_illegal hb he hd, fun s rest ho he => ?_⟩
  have hd : decode 0x00000006 = .error .reservedOpcode := by decide
  exact ⟨_, step_engine_illegal (s := accept 0x00000006 s) rfl he hd, statusWord_completeIllegal ho, rfl, rfl⟩

end Sys2Proof.Machine
end

section
/-! PROOFS. The exceptions of spec/60_exceptions.md: an error of a completion writes the flags and ERRINFO (R255). -/

namespace Sys2Proof.Machine

/-- A success has the code 0, so a command that ends with another code raised its error from the state it started in, but for
the source port's trace. -/
theorem exec_error {i : Instr} {s t : State} (h : exec i s = .next t) (herr : t.err ≠ 0#4) :
    ∃ e n q, t = raiseError e n { s with requests := q } := by
  obtain he | ⟨-, rfl⟩ | ⟨-, rfl⟩ | ⟨-, rfl⟩ | ⟨-, rfl⟩ | ⟨_, _, -, -, -, rfl⟩ | ⟨_, _, -, -, rfl⟩ := exec_cases h
  · exact he
  all_goals exact absurd rfl herr

/-- The completion of an illegal word is IllegalCommand itself; that of a command is `exec_error`'s. -/
theorem complete_error {s t : State} (h : complete s = .next t) (herr : t.err ≠ 0#4) :
    ∃ e n q, t = raiseError e n { s with requests := q } := by
  obtain ⟨_, -, he⟩ | ⟨_, -, rfl⟩ := complete_cases h
  · exact exec_error he herr
  · exact ⟨.illegalCommand, s.latch.cmd, s.requests, rfl⟩

/-- Settles O10: the end of a failed completion is `raiseError`, which writes ERR, ERRINFO, BUSY and DONE. -/
theorem errorsWriteNoResult : Obligations.ErrorsWriteNoResult := by
  intro s t h herr
  obtain ⟨_, _, _, rfl⟩ := complete_error h herr
  rfl

end Sys2Proof.Machine
end

section
/-! PROOFS. Reset of spec/70_reset_and_hazards.md: what every register reads right after it (R281). -/

namespace Sys2Proof.Machine

/-- Without an image every FB register reads 0, whatever the frame buffer holds (10_state.md R53). -/
theorem regValue_fb_of_no_image {s : State} (h : imagePixels s = 0) (k : Nat) : regValue s (.fb k) = 0#32 :=
  if_neg (by rw [h]; exact Nat.not_lt_zero k)

theorem packRow_zero : packRow (Vector.replicate 8 0) = 0#32 := by decide

theorem applyReset_tidx_row (s : State) (r : Fin 8) : (applyReset s).tidx[r] = Vector.replicate 8 0 := by simp

theorem reset_eq_applyReset : State.reset = applyReset State.reset := rfl

/-- A reset of any state leaves every register but FB_CAP at 0: the palette by its count, the tile rows by their columns, the
frame buffer by its dimensions, the others by their own fields. -/
theorem regValue_applyReset (s : State) {r : Reg} (h : r ≠ .fbCap) : regValue (applyReset s) r = 0#32 := by
  cases r with
  | fbCap => exact absurd rfl h
  | pal i => exact regValue_pal_of_empty rfl i
  | tidxRow i => rw [regValue, applyReset_tidx_row, packRow_zero]
  | fb k => exact regValue_fb_of_no_image rfl k
  | status | fbGrid | fbDim => simp [regValue, statusWord]
  | _ => rfl

/-- Settles O34: the reset state is a reset of itself, so its registers are `regValue_applyReset`'s. -/
theorem resetValuesOfEveryRegister : Obligations.ResetValuesOfEveryRegister := by
  refine ⟨rfl, fun r hr => ?_, rfl, fun r c => ?_⟩
  · rw [reset_eq_applyReset, regValue_applyReset _ hr]
  · rw [reset_eq_applyReset, applyReset_tidx_row]
    simp

end Sys2Proof.Machine
end

section
/-! PROOFS. The round trips of spec/30_encoding.md: decoding an encoding (R111, R112, R120) and encoding a decoding (R115, R118), and
the six forms' words. -/

namespace Sys2Proof

section
variable {w h : BitVec 8}

/-- A nonzero grid reads back from the word it was put in. -/
theorem decodeGrid_commandWord (mk : BitVec 8 → BitVec 8 → Instr) (op : BitVec 4) (hg : gridWf w h) :
    decodeGrid mk (commandWord op w h) = .ok (mk w h) := by
  simp [decodeGrid, hg.1, hg.2]

/-- A command word has no reserved bit set, so the decoder turns on OP alone. -/
theorem decode_commandWord_asm : decode (commandWord 0x4#4 w h) = decodeGrid .asm (commandWord 0x4#4 w h) := by
  simp [decode]

theorem decode_commandWord_phold : decode (commandWord 0x5#4 w h) = decodeGrid .phold (commandWord 0x5#4 w h) := by
  simp [decode]

end

/-- Decoding an encoding gives the command back: the four fixed words by computation, the two grid words by their fields. -/
theorem decode_encode {i : Instr} (hi : i.wf = true) : decode (encode i) = .ok i := by
  cases i with
  | asm w h => exact decode_commandWord_asm.trans (decodeGrid_commandWord .asm 0x4#4 (of_decide_eq_true hi))
  | phold w h => exact decode_commandWord_phold.trans (decodeGrid_commandWord .phold 0x5#4 (of_decide_eq_true hi))
  | _ => rfl

/-- Settles O1: each field of a command's word is the command's own, and a well-formed grid passes the decoder's zero test. -/
theorem decodeOfEncodeIsTheCommand : Obligations.DecodeOfEncodeIsTheCommand := fun _ => decode_encode

/-- Settles O2: an accepted word has the fields of its command, and its reserved fields are 0. -/
theorem encodeOfDecodeIsTheWord : Obligations.EncodeOfDecodeIsTheWord := fun _ _ hd => ⟨decode_wf hd, encode_of_decode hd⟩

/-- The fields of a command word do not overlap, so their sum is the spec's disjunction (R120). -/
theorem commandWord_toNat_or (op : BitVec 4) (w h : BitVec 8) :
    (commandWord op w h).toNat = (h.toNat <<< 16) ||| (w.toNat <<< 8) ||| op.toNat := by
  have hw : w.toNat <<< 8 < 2 ^ 16 := by have := w.isLt; rw [Nat.shiftLeft_eq]; omega
  have hop : op.toNat < 2 ^ 8 := by have := op.isLt; omega
  have hhw : (h.toNat <<< 16) ||| (w.toNat <<< 8) = (h.toNat * 256 + w.toNat) <<< 8 := by
    rw [← Nat.shiftLeft_add_eq_or_of_lt hw]
    simp only [Nat.shiftLeft_eq]
    omega
  rw [hhw, ← Nat.shiftLeft_add_eq_or_of_lt hop, commandWord_toNat, Nat.shiftLeft_eq]
  omega

/-- Settles O4: the fixed words by computation, the grid words as their disjoint fields. -/
theorem encodingsAreTheSpecsWords : Obligations.EncodingsAreTheSpecsWords :=
  ⟨rfl, rfl, rfl, rfl, fun w h => ⟨commandWord_toNat_or 0x4#4 w h, commandWord_toNat_or 0x5#4 w h⟩⟩

/-- Settles O5: each word is a closed term the decoder computes on. -/
theorem sampleWordsDecodeAsWritten : Obligations.SampleWordsDecodeAsWritten := by
  unfold Obligations.SampleWordsDecodeAsWritten
  decide

end Sys2Proof
end

section
/-! PROOFS. The invariant of the machine (spec/42_raster_assembler.md R195, spec/10_state.md section 2): one lemma per operation that
keeps it, and the step. -/

namespace Sys2Proof.Machine

/-! ## The pixels (R141, R185, R192) -/

/-- Every palette colour has channels that are multiples of 8. -/
theorem scaled_col15 (c : BitVec 16) : Rgb.scaled (col15 c) = true := by
  simp [Rgb.scaled, col15_r, col15_g, col15_b]

theorem scaled_palLookup {s : State} (hp : ∀ i : Fin 16, Rgb.scaled s.pal[i] = true) (n : Nibble) :
    Rgb.scaled (palLookup s n) = true := hp ⟨n.toNat, n.isLt⟩

theorem scaled_of_mem_decodedImage {s : State} {w h : BitVec 8} (hp : ∀ i : Fin 16, Rgb.scaled s.pal[i] = true) {c : Rgb}
    (hc : c ∈ decodedImage s w h) : Rgb.scaled c = true := by
  obtain ⟨n, -, rfl⟩ := List.mem_map.1 hc
  exact scaled_palLookup hp n

/-- An entry of the image just written is one of its pixels. -/
theorem fbEntry_writeImage_mem {kind : BitVec 2} {w h : BitVec 8} {px : List Rgb} {s : State} {k : Nat} (hk : k < px.length) :
    fbEntry (writeImage kind w h px s) k ∈ px := by
  rw [fbEntry_writeImage, dif_pos hk]
  exact List.getElem_mem hk

/-! ## What keeps the invariant -/

section
variable {s t : State}

theorem StateInv.withRequests (inv : StateInv s) (q : List SrcRequest) : StateInv { s with requests := q } := { inv with }

theorem StateInv.request (inv : StateInv s) (n : Nat) : StateInv (request n s) := inv.withRequests _

theorem StateInv.popped (inv : StateInv s) : StateInv (popped s) := { inv with }

theorem StateInv.loadTile (inv : StateInv s) : StateInv (loadTile s) := { inv with }

theorem StateInv.quiet (inv : StateInv s) (q : Quiet s t) : StateInv t := by
  have hvars := q.varsWf inv.varsWf
  rw [q.same]
  exact { inv with varsWf := hvars }

/-- The common completion writes: an outcome is on record, so BUSY is 0 and DONE is 1. -/
theorem StateInv.completed (inv : StateInv s) {e : BitVec 4} (he : e.toNat ≤ 6) (n : Word) : StateInv (flagsCompleted e n s) :=
  { inv with busyNotDone := nofun, noOutcome := nofun, errLegal := he, busyLatch := nofun }

theorem StateInv.raise (inv : StateInv s) (e : ErrKind) (n : Word) : StateInv (raiseError e n s) := inv.completed e.code_legal n

theorem StateInv.succeed (inv : StateInv s) : StateInv (succeed s) := inv.completed (by decide) 0

theorem StateInv.loadPalette (inv : StateInv s) : StateInv (loadPalette s) :=
  { inv with
    palCountLegal := .inr rfl
    palOffEmpty := fun h => absurd h (by rw [loadPalette_palCount]; decide)
    palScaled := fun i => by
      simp only [loadPalette_pal, Fin.getElem_fin, Vector.getElem_ofFn]
      exact scaled_col15 _ }

theorem StateInv.emptyPalette (inv : StateInv s) : StateInv { s with palCount := 0, palOff := 0 } :=
  { inv with palCountLegal := .inl rfl, palOffEmpty := fun _ => rfl }

/-- An image of a nonempty grid that fits, of kind 1 with scaled pixels or of kind 2 with sentinel pixels. -/
theorem StateInv.writeImage (inv : StateInv s) {kind : BitVec 2} {w h : BitVec 8} {px : List Rgb} (hw : w ≠ 0#8)
    (hfit : gridPixels w h ≤ s.fbMaxPixels) (hlen : px.length = gridPixels w h)
    (hpx : (kind = 1#2 ∧ ∀ c ∈ px, Rgb.scaled c = true) ∨ (kind = 2#2 ∧ ∀ c ∈ px, c = Config.sentinel)) :
    StateInv (writeImage kind w h px s) := by
  have hkind : kind ≠ 0#2 ∧ kind ≠ 3#2 := by obtain ⟨rfl, -⟩ | ⟨rfl, -⟩ := hpx <;> decide
  have hmem : ∀ k < imagePixels (Machine.writeImage kind w h px s), fbEntry (Machine.writeImage kind w h px s) k ∈ px :=
    fun k hk => fbEntry_writeImage_mem (by rwa [imagePixels_writeImage, ← hlen] at hk)
  exact { inv with
    kindLegal := hkind.2
    noImage := iff_of_false hkind.1 fun hz => hw hz.2.1
    noImageOff := fun hz => absurd hz hkind.1
    dims := ⟨sidePixels_ofNat w, sidePixels_ofNat h⟩
    imageFits := by rw [imagePixels_writeImage]; exact hfit
    imageWritten := by rw [imagePixels_writeImage, length_writeImage_fb]; omega
    storageFits := by
      rw [length_writeImage_fb, hlen]
      exact max_le hfit inv.storageFits
    decodedPixels := fun h1 k hk => by
      obtain ⟨-, hpx⟩ | ⟨h2, -⟩ := hpx
      · exact hpx _ (hmem k hk)
      · exact absurd (h1.symm.trans h2) (by decide)
    placeholderPixels := fun h2 k hk => by
      obtain ⟨h1, -⟩ | ⟨-, hpx⟩ := hpx
      · exact absurd (h1.symm.trans h2) (by decide)
      · exact hpx _ (hmem k hk) }

theorem StateInv.assemble (inv : StateInv s) {w h : BitVec 8} (hw : w ≠ 0#8) (hfit : gridPixels w h ≤ s.fbMaxPixels) :
    StateInv (assemble w h s) :=
  inv.writeImage hw hfit (length_decodedImage s w h) (.inl ⟨rfl, fun _ => scaled_of_mem_decodedImage inv.palScaled⟩)

theorem StateInv.placeholder (inv : StateInv s) {w h : BitVec 8} (hw : w ≠ 0#8) (hfit : gridPixels w h ≤ s.fbMaxPixels) :
    StateInv (placeholder w h s) :=
  (inv.writeImage hw hfit (length_placeholderImage w h) (.inr ⟨rfl, fun _ => List.eq_of_mem_replicate⟩)).succeed

/-- A reset needs of its state only what it keeps: the capacity, the source and the host's names. -/
theorem stateInv_applyReset (hcap : Config.fbMinCapacity ≤ s.fbMaxPixels ∧ s.fbMaxPixels ≤ Config.fbMaxCapacity)
    (hsrc : Memory.wf s.src = true) (hvars : cellsWf 0 s.host.vars = true) : StateInv (applyReset s) where
  capacity := hcap
  srcWf := hsrc
  varsWf := hvars
  busyNotDone := nofun
  noOutcome := fun _ => ⟨rfl, rfl⟩
  errLegal := Nat.zero_le 6
  busyLatch := nofun
  palCountLegal := .inl rfl
  palOffEmpty := fun _ => rfl
  palScaled := fun i => by simp [Rgb.scaled]
  kindLegal := by rw [applyReset_fbKind, reset_fbKind]; decide
  noImage := iff_of_true rfl ⟨⟨rfl, rfl⟩, rfl, rfl⟩
  noImageOff := fun _ => rfl
  dims := ⟨rfl, rfl⟩
  imageFits := Nat.zero_le _
  imageWritten := Nat.zero_le _
  storageFits := Nat.zero_le _
  decodedPixels := fun _ _ hk => absurd hk (Nat.not_lt_zero _)
  placeholderPixels := fun _ _ hk => absurd hk (Nat.not_lt_zero _)

/-- A host write reaches the flags, the operands and, by an acceptance, CMD and L. -/
theorem StateInv.writeReg (inv : StateInv s) (r : Reg) (v : Word) : StateInv (writeReg r v s) := by
  obtain ⟨-, e⟩ | ⟨-, e⟩ | ⟨-, -, e⟩ | ⟨-, -, e⟩ | ⟨-, e⟩ | ⟨-, e⟩ | ⟨-, e⟩ := writeReg_cases r v s <;> rw [e]
  case inr.inr.inr.inl =>
    exact { inv with
      busyNotDone := fun _ => rfl, noOutcome := fun _ => ⟨rfl, rfl⟩, errLegal := Nat.zero_le 6, busyLatch := fun _ => rfl }
  all_goals exact { inv with }

/-- A change of a byte of the source at a 32-bit address. -/
theorem StateInv.writeSource (inv : StateInv s) (a : Word) (b : Byte) :
    StateInv { s with src := Memory.write s.src a.toNat b } :=
  { inv with srcWf := Memory.wf_write inv.srcWf a.isLt }

/-- Every command keeps the invariant; the grids of ASM and PHOLD are well formed, as the decoder answers them. -/
theorem StateInv.exec (inv : StateInv s) {i : Instr} (hi : i.wf = true) (h : exec i s = .next t) : StateInv t := by
  obtain ⟨e, n, q, rfl⟩ | ⟨-, rfl⟩ | ⟨-, rfl⟩ | ⟨-, rfl⟩ | ⟨-, rfl⟩ | ⟨w, h', rfl, hfit, -, rfl⟩ | ⟨w, h', rfl, hfit, rfl⟩ := exec_cases h
  · exact (inv.withRequests q).raise e n
  · exact inv.succeed
  · exact (inv.request _).loadPalette.succeed
  · exact inv.emptyPalette.succeed
  · exact (inv.request _).loadTile.succeed
  · exact ((inv.request _).assemble (of_decide_eq_true hi).1 hfit).succeed
  · exact inv.placeholder (of_decide_eq_true hi).1 hfit

/-- Each thing a step can do keeps the invariant. -/
theorem StateInv.step (inv : StateInv s) (h : step s = .next t) : StateInv t := by
  obtain ⟨-, -, ⟨i, hd, he⟩ | ⟨e, -, rfl⟩⟩ | ⟨-, rfl⟩ | ⟨r, v, u, -, q, rfl⟩ | ⟨-, q⟩ | ⟨-, a, b, -, rfl⟩ := step_cases h
  · exact inv.popped.exec (decode_wf hd) he
  · exact inv.popped.raise _ _
  · exact stateInv_applyReset inv.capacity inv.srcWf inv.varsWf
  · exact (inv.popped.quiet q).writeReg r v
  · exact inv.popped.quiet q
  · exact inv.popped.writeSource a b

end

/-- Settles O32: each of a step's outcomes is an operation that keeps the invariant. -/
theorem everyStepKeepsTheInvariant : Obligations.EveryStepKeepsTheInvariant := fun _ _ inv h => inv.step h

/-- Settles O33: the reset state is a reset of itself, at the default capacity. -/
theorem resetHasTheInvariant : Obligations.ResetHasTheInvariant := by
  unfold Obligations.ResetHasTheInvariant
  rw [reset_eq_applyReset]
  exact stateInv_applyReset (by decide) Memory.wf_reset rfl

end Sys2Proof.Machine
end

section
/-! PROOFS. The two kinds of register read (spec/10_state.md R58; spec/20_memory.md R93). -/

namespace Sys2Proof.Machine

section
variable {s : State} {r : Reg}

/-- A result register read while BUSY answers the next free draw. -/
theorem readReg_draw (hb : s.busy = true) (hr : r.isResult = true) :
    readReg r s = { s with readData := Config.busyRead s.draws, draws := s.draws + 1 } := if_pos (by simp [hb, hr])

/-- Any other read answers the register's value. -/
theorem readReg_value (h : s.busy = false ∨ r.isResult = false) : readReg r s = { s with readData := regValue s r } :=
  if_neg (by obtain h | h := h <;> simp [h])

end

end Sys2Proof.Machine
end

section
/-! PROOFS. What spec/93_implementation_defined.md S2 to S4 leaves unspecified is never observed: each operation of the machine takes
two states that differ only there to two states, or to one stop, that again differ only there. -/

namespace Sys2Proof.Machine

section
variable {s t : State}

/-! ## What two such states share -/

theorem ObsEq.refl (s : State) : ObsEq s s := ⟨rfl, fun _ => rfl, fun _ _ => rfl, fun _ => rfl⟩

theorem ObsEq.busy (e : ObsEq s t) : t.busy = s.busy := by rw [e.same]
theorem ObsEq.capacity (e : ObsEq s t) : t.fbMaxPixels = s.fbMaxPixels := by rw [e.same]
theorem ObsEq.palCount (e : ObsEq s t) : t.palCount = s.palCount := by rw [e.same]
theorem ObsEq.src (e : ObsEq s t) : t.src = s.src := by rw [e.same]
theorem ObsEq.draws (e : ObsEq s t) : t.draws = s.draws := by rw [e.same]
theorem ObsEq.host (e : ObsEq s t) : t.host = s.host := by rw [e.same]
theorem ObsEq.events (e : ObsEq s t) : t.events = s.events := by rw [e.same]
theorem ObsEq.readData (e : ObsEq s t) : t.readData = s.readData := by rw [e.same]
theorem ObsEq.ovr (e : ObsEq s t) : t.ovr = s.ovr := by rw [e.same]
theorem ObsEq.operands (e : ObsEq s t) : t.addr = s.addr ∧ t.srcLen = s.srcLen ∧ t.srcEn = s.srcEn := by
  rw [e.same]; exact ⟨rfl, rfl, rfl⟩
theorem ObsEq.imagePixels (e : ObsEq s t) : imagePixels t = imagePixels s := by rw [e.same]; rfl
theorem ObsEq.srcRead (e : ObsEq s t) : srcRead t = srcRead s := srcRead_of_src e.src

/-- Every register reads the same: PAL_COUNT guards the palette entries, and the image's size the frame buffer's. -/
theorem ObsEq.regValue (e : ObsEq s t) (r : Reg) : regValue t r = regValue s r := by
  cases r with
  | pal i =>
    simp only [Machine.regValue, e.palCount]
    split
    · next h16 => rw [e.pal (by rw [h16]; decide)]
    · rfl
  | fb k =>
    simp only [Machine.regValue, e.imagePixels]
    split
    · next hk => rw [e.fb k hk]
    · rfl
  | _ => rw [e.same]; rfl

/-! ## Updates of what both states share -/

theorem ObsEq.withEvents (e : ObsEq s t) (l : List Event) : ObsEq { s with events := l } { t with events := l } :=
  ⟨by rw [e.same], e.pal, e.fb, e.latch⟩

theorem ObsEq.withHost (e : ObsEq s t) (c : HostCtx) : ObsEq (s.withHost c) (t.withHost c) :=
  ⟨by rw [e.same]; rfl, e.pal, e.fb, e.latch⟩

theorem ObsEq.withReadData (e : ObsEq s t) (v : Word) : ObsEq { s with readData := v } { t with readData := v } :=
  ⟨by rw [e.same], e.pal, e.fb, e.latch⟩

theorem ObsEq.withDrawRead (e : ObsEq s t) (v : Word) (n : Nat) :
    ObsEq { s with readData := v, draws := n } { t with readData := v, draws := n } :=
  ⟨by rw [e.same], e.pal, e.fb, e.latch⟩

theorem ObsEq.withDraws (e : ObsEq s t) (n : Nat) : ObsEq { s with draws := n } { t with draws := n } :=
  ⟨by rw [e.same], e.pal, e.fb, e.latch⟩

theorem ObsEq.withOvr (e : ObsEq s t) (b : Bool) : ObsEq { s with ovr := b } { t with ovr := b } :=
  ⟨by rw [e.same], e.pal, e.fb, e.latch⟩

theorem ObsEq.withSrc (e : ObsEq s t) (m : List Host.Cell) : ObsEq { s with src := m } { t with src := m } :=
  ⟨by rw [e.same], e.pal, e.fb, e.latch⟩

/-! ## Host accesses -/

theorem ObsEq.readReg (e : ObsEq s t) (r : Reg) : ObsEq (readReg r s) (readReg r t) := by
  by_cases h : s.busy = true ∧ r.isResult = true
  · rw [readReg_draw h.1 h.2, readReg_draw (e.busy.trans h.1) h.2, e.draws]
    exact e.withDrawRead _ _
  · have hs : s.busy = false ∨ r.isResult = false := by simpa using not_and_or.1 h
    rw [readReg_value hs, readReg_value (e.busy ▸ hs), e.regValue]
    exact e.withReadData _

/-- An acceptance gives both states one L. -/
theorem ObsEq.accept (e : ObsEq s t) (v : Word) : ObsEq (accept v s) (accept v t) := by
  obtain ⟨haddr, hlen, hen⟩ := e.operands
  refine ⟨?_, e.pal, e.fb, fun _ => ?_⟩
  · rw [e.same]; rfl
  · simp only [accept_latch, haddr, hlen, hen]

theorem ObsEq.writeCmd (e : ObsEq s t) (v : Word) : ObsEq (writeCmd v s) (writeCmd v t) := by
  cases hb : s.busy with
  | true =>
    rw [writeCmd_inFlight hb, writeCmd_inFlight (e.busy.trans hb)]
    exact e.withOvr true
  | false =>
    rw [writeCmd_idle hb, writeCmd_idle (e.busy.trans hb)]
    exact e.accept v

theorem ObsEq.writeReg (e : ObsEq s t) (r : Reg) (v : Word) : ObsEq (writeReg r v s) (writeReg r v t) := by
  cases r with
  | cmd => exact e.writeCmd v
  | status =>
    unfold Machine.writeReg flagsWritten
    rw [e.ovr]
    exact e.withOvr _
  | ctrl | addr | srcLen => exact ⟨by rw [e.same]; rfl, e.pal, e.fb, e.latch⟩
  | _ => exact e

theorem ObsEq.regAt (e : ObsEq s t) (off : Nat) : regAt t.fbMaxPixels off = regAt s.fbMaxPixels off := by rw [e.capacity]

theorem ObsEq.busRead (e : ObsEq s t) (off width : Nat) :
    outcomesRelated ObsEq (busRead off width s) (busRead off width t) := by
  unfold Machine.busRead
  rw [e.regAt]
  split
  · split
    · exact e.readReg _
    · exact e.withReadData 0
  · rfl

theorem ObsEq.busWrite (e : ObsEq s t) (off width : Nat) (v : Word) :
    outcomesRelated ObsEq (busWrite off width v s) (busWrite off width v t) := by
  unfold Machine.busWrite
  rw [e.regAt]
  split
  · split
    · exact e.writeReg _ v
    · exact e
  · rfl

theorem ObsEq.interleaves (e : ObsEq s t) (off : Nat) : interleaves t off = interleaves s off := by
  unfold Machine.interleaves
  rw [e.host, e.regAt]

theorem ObsEq.rawRead (e : ObsEq s t) (off width : Nat) :
    outcomesRelated ObsEq (rawRead off width s) (rawRead off width t) := by
  unfold Machine.rawRead
  rw [e.interleaves]
  split
  · rfl
  · exact e.busRead off width

theorem ObsEq.rawWrite (e : ObsEq s t) (off width : Nat) (v : Word) :
    outcomesRelated ObsEq (rawWrite off width v s) (rawWrite off width v t) := by
  unfold Machine.rawWrite
  rw [e.interleaves]
  split
  · rfl
  · exact e.busWrite off width v

/-! ## The host program -/

theorem ObsEq.regExists (e : ObsEq s t) (r : Reg) : regExists t r = regExists s r := by
  unfold Machine.regExists
  rw [e.capacity]

theorem ObsEq.hostWord (e : ObsEq s t) (v : Nat) : hostWord v t = hostWord v s := by
  unfold Machine.hostWord
  rw [e.draws]

theorem ObsEq.wordFormed (e : ObsEq s t) (v : Nat) : ObsEq (wordFormed v s) (wordFormed v t) := by
  unfold Machine.wordFormed
  rw [e.draws]
  split
  · exact e
  · exact e.withDraws _

theorem ObsEq.hostWrite (e : ObsEq s t) (r : Reg) (v : Nat) :
    outcomesRelated ObsEq (hostWrite r v s) (hostWrite r v t) := by
  unfold Machine.hostWrite
  rw [e.regExists, e.hostWord, e.host]
  split
  · rfl
  · split
    · exact ((e.wordFormed v).withHost _).busWrite _ _ _
    · rfl

theorem ObsEq.takeReadData (e : ObsEq s t) (x : HostVar) : ObsEq (takeReadData x s) (takeReadData x t) := by
  unfold Machine.takeReadData
  rw [e.host, e.readData]
  exact e.withHost _

theorem ObsEq.hostRead (e : ObsEq s t) (r : Reg) (x : HostVar) :
    outcomesRelated ObsEq (hostRead r x s) (hostRead r x t) := by
  unfold Machine.hostRead
  rw [e.regExists, e.host]
  split
  · have hbus := (e.withHost s.host.advance).busRead r.offset 32
    generalize Machine.busRead r.offset 32 (s.withHost _) = a at hbus ⊢
    generalize Machine.busRead r.offset 32 (t.withHost _) = b at hbus ⊢
    cases a <;> cases b
    case next.next => exact ObsEq.takeReadData hbus x
    all_goals exact hbus
  · rfl

theorem ObsEq.hostBusiness (e : ObsEq s t) (op : HostInstr) :
    outcomesRelated ObsEq (hostBusiness op s) (hostBusiness op t) := by
  unfold Machine.hostBusiness
  rw [e.host]
  split
  · exact e.withHost _
  · rfl

theorem ObsEq.hostAction (e : ObsEq s t) (op : HostInstr) : outcomesRelated ObsEq (hostAction op s) (hostAction op t) := by
  cases op with
  | wr r v =>
    unfold Machine.hostAction
    rw [e.host]
    exact e.hostWrite r _
  | rd r x => exact e.hostRead r x
  | _ =>
    rw [hostAction_business rfl, hostAction_business rfl]
    exact e.hostBusiness _

theorem ObsEq.hostTurn (e : ObsEq s t) : outcomesRelated ObsEq (hostTurn s) (hostTurn t) := by
  unfold Machine.hostTurn
  rw [e.host]
  split
  · exact e.hostAction _
  · exact e

theorem ObsEq.issueProgram (e : ObsEq s t) (p : List HostInstr) :
    outcomesRelated ObsEq (issueProgram p s) (issueProgram p t) := by
  unfold Machine.issueProgram
  rw [e.host]
  split
  · exact e.withHost _
  · rfl

theorem ObsEq.issueSearch (e : ObsEq s t) (o w h p count : Nat) :
    outcomesRelated ObsEq (issueSearch o w h p count s) (issueSearch o w h p count t) := by
  unfold Machine.issueSearch
  rw [e.host]
  split
  · split
    · exact e.withHost _
    · rfl
  · rfl

/-! ## The source -/

/-- A command in flight has one window in both states, and without one the window is empty in both. -/
theorem ObsEq.inStableWindow (e : ObsEq s t) (a : Nat) : inStableWindow t a = inStableWindow s a := by
  unfold Machine.inStableWindow stableBytes
  rw [e.busy]
  split
  · next hb => rw [e.latch hb]
  · exact decide_eq_decide.2 (by omega)

theorem ObsEq.changeSource (e : ObsEq s t) (a : Word) (b : Byte) :
    outcomesRelated ObsEq (changeSource a b s) (changeSource a b t) := by
  unfold Machine.changeSource
  rw [e.inStableWindow, e.srcRead, e.src]
  split
  · rfl
  · exact e.withSrc _

/-! ## Completions: with BUSY = 1 both states have one L -/

theorem ObsEq.completed (e : ObsEq s t) (c : BitVec 4) (n : Word) : ObsEq (flagsCompleted c n s) (flagsCompleted c n t) :=
  ⟨by rw [e.same]; rfl, e.pal, e.fb, nofun⟩

theorem ObsEq.emptyPalette (e : ObsEq s t) :
    ObsEq { s with palCount := 0, palOff := 0 } { t with palCount := 0, palOff := 0 } :=
  ⟨by rw [e.same], fun h => absurd rfl h, e.fb, e.latch⟩

/-- Two states with the same observations and one L. -/
structure ObsEqLatched (s t : State) : Prop where
  obs : ObsEq s t
  latch : t.latch = s.latch

theorem ObsEqLatched.request (e : ObsEqLatched s t) (n : Nat) : ObsEqLatched (request n s) (request n t) := by
  refine ⟨⟨?_, e.obs.pal, e.obs.fb, fun _ => e.latch⟩, e.latch⟩
  unfold Machine.request
  rw [e.latch, e.obs.same]

theorem ObsEqLatched.latchByte (e : ObsEqLatched s t) : latchByte t = latchByte s := by
  funext k
  unfold Machine.latchByte
  rw [e.latch, e.obs.srcRead]

theorem ObsEqLatched.paletteEntry (e : ObsEqLatched s t) : paletteEntry t = paletteEntry s := by
  funext j
  unfold Machine.paletteEntry srcRead16
  rw [e.latch, e.obs.srcRead]

theorem ObsEqLatched.loadPalette (e : ObsEqLatched s t) : ObsEq (loadPalette s) (loadPalette t) := by
  refine ⟨?_, fun _ => ?_, e.obs.fb, fun _ => e.latch⟩
  · unfold Machine.loadPalette
    rw [e.latch, e.obs.same]
  · rw [loadPalette_pal, loadPalette_pal, e.paletteEntry]

theorem ObsEqLatched.loadTile (e : ObsEqLatched s t) : ObsEq (loadTile s) (loadTile t) := by
  refine ⟨?_, e.obs.pal, e.obs.fb, fun _ => e.latch⟩
  unfold Machine.loadTile
  rw [e.latchByte, e.obs.same]

/-- An image replaces every entry that its size makes observable. -/
theorem ObsEqLatched.writeImage (e : ObsEqLatched s t) (kind : BitVec 2) {w h : BitVec 8} {px : List Rgb}
    (hlen : px.length = gridPixels w h) : ObsEq (writeImage kind w h px s) (writeImage kind w h px t) := by
  refine ⟨?_, e.obs.pal, fun k hk => ?_, fun _ => e.latch⟩
  · unfold Machine.writeImage
    rw [e.latch, e.obs.same]
  · rw [imagePixels_writeImage, ← hlen] at hk
    rw [fbEntry_writeImage, fbEntry_writeImage, dif_pos hk, dif_pos hk]

/-- With a palette both states have the same colours, so an ASM decodes the same image. -/
theorem ObsEqLatched.assemble (e : ObsEqLatched s t) (hp : s.palCount ≠ 0#5) (w h : BitVec 8) :
    ObsEq (assemble w h s) (assemble w h t) := by
  have himage : decodedImage t w h = decodedImage s w h := by
    unfold decodedImage palLookup
    rw [e.latch, e.obs.srcRead, e.obs.pal hp]
  unfold Machine.assemble
  rw [himage]
  exact e.writeImage 1 (length_decodedImage s w h)

theorem ObsEqLatched.withSource (e : ObsEqLatched s t) (need : Nat) (short : ErrKind) {use : State → State}
    (huse : ObsEq (use (Machine.request need s)) (use (Machine.request need t))) :
    ObsEq (withSource need short use s) (withSource need short use t) := by
  unfold Machine.withSource latchAvail
  rw [e.latch]
  split
  · exact e.obs.completed _ _
  · split
    · exact (e.request need).obs.completed _ _
    · exact huse.completed _ _

theorem ObsEqLatched.withCapacity (e : ObsEqLatched s t) (w h : BitVec 8) {go : State → State} (hgo : ObsEq (go s) (go t)) :
    ObsEq (withCapacity w h go s) (withCapacity w h go t) := by
  unfold Machine.withCapacity
  rw [e.obs.capacity]
  split
  · exact e.obs.completed _ _
  · exact hgo

theorem ObsEqLatched.assembleFromPalette (e : ObsEqLatched s t) (w h : BitVec 8) :
    ObsEq (assembleFromPalette w h s) (assembleFromPalette w h t) := by
  unfold Machine.assembleFromPalette
  rw [e.obs.palCount]
  split
  · exact e.obs.completed _ _
  · next hp => exact e.withSource _ _ ((e.request _).assemble hp w h)

theorem ObsEqLatched.exec (e : ObsEqLatched s t) (i : Instr) : outcomesRelated ObsEq (exec i s) (exec i t) := by
  cases i with
  | nop => exact e.obs.completed 0 0
  | pload => exact e.withSource _ _ (e.request _).loadPalette
  | pclr => exact e.obs.emptyPalette.completed 0 0
  | tunpk => exact e.withSource _ _ (e.request _).loadTile
  | asm w h => exact e.withCapacity w h (e.assembleFromPalette w h)
  | phold w h => exact e.withCapacity w h ((e.writeImage 2 (length_placeholderImage w h)).completed 0 0)

theorem ObsEqLatched.complete (e : ObsEqLatched s t) : outcomesRelated ObsEq (complete s) (complete t) := by
  unfold Machine.complete completeIllegal
  rw [e.latch]
  split
  · exact e.exec _
  · exact e.obs.completed _ _

theorem ObsEq.complete (e : ObsEq s t) (hb : s.busy = true) : outcomesRelated ObsEq (complete s) (complete t) :=
  ObsEqLatched.complete ⟨e, e.latch hb⟩

theorem ObsEq.engineTurn (e : ObsEq s t) : outcomesRelated ObsEq (engineTurn s) (engineTurn t) := by
  unfold Machine.engineTurn
  rw [e.busy]
  split
  · exact e.complete ‹_›
  · exact e

/-! ## The step -/

/-- A reset forgets what the two states differ in. -/
theorem ObsEq.applyReset (e : ObsEq s t) : applyReset t = applyReset s := by rw [e.same]; rfl

theorem ObsEq.perform (e : ObsEq s t) (ev : Event) : outcomesRelated ObsEq (perform ev s) (perform ev t) := by
  cases ev with
  | read off width => exact e.rawRead _ width
  | write off width v => exact e.rawWrite _ width v
  | engine => exact e.engineTurn
  | reset =>
    unfold Machine.perform
    rw [e.applyReset]
    exact ObsEq.refl _
  | source a b => exact e.changeSource a b
  | host => exact e.hostTurn
  | program p => exact e.issueProgram p
  | search o w h p count => exact e.issueSearch o w h p count

theorem ObsEq.quietTurn (e : ObsEq s t) : outcomesRelated ObsEq (quietTurn s) (quietTurn t) := by
  unfold Machine.quietTurn
  rw [e.busy]
  split
  · exact e.complete ‹_›
  · exact e.hostTurn

theorem ObsEq.step (e : ObsEq s t) : outcomesRelated ObsEq (step s) (step t) := by
  unfold Machine.step takeTurn
  rw [e.events]
  split
  · exact e.quietTurn
  · exact (e.withEvents _).perform _

end

/-- Settles O55: every operation of a step keeps the relation, and every register is guarded by what both states share. -/
theorem unspecifiedStorageIsNeverObserved : Obligations.UnspecifiedStorageIsNeverObserved :=
  ⟨fun _ _ e => e.step, fun _ _ r e => e.regValue r⟩

end Sys2Proof.Machine
end

section
/-! PROOFS. What every command does (spec/43_control.md R213, spec/60_exceptions.md R250): the outcome, the request on the source port
(spec/20_memory.md R86), the short buffers (R85), and the engine's step. -/

namespace Sys2Proof.Machine

section
variable {s t : State} {i : Instr} {need : Nat} {short : ErrKind} {use : State → State}

/-! ## The outcome (R250) -/

/-- A command ends with one error's code, or with 0 in ERR and ERRINFO. -/
theorem exec_outcome (h : exec i s = .next t) : (∃ e : ErrKind, t.err = e.code) ∨ (t.err = 0#4 ∧ t.errInfo = 0#32) := by
  obtain ⟨e, _, _, rfl⟩ | ⟨-, rfl⟩ | ⟨-, rfl⟩ | ⟨-, rfl⟩ | ⟨-, rfl⟩ | ⟨_, _, -, -, -, rfl⟩ | ⟨_, _, -, -, rfl⟩ := exec_cases h
  · exact .inl ⟨e, rfl⟩
  all_goals exact .inr ⟨rfl, rfl⟩

end

/-- Settles O9: every command answers a state with BUSY = 0, and its outcome is an error's code or 0. -/
theorem everyCommandCompletesWithOneOutcome : Obligations.EveryCommandCompletesWithOneOutcome := by
  intro i s
  obtain ⟨t, h⟩ := exec_next i s
  obtain ⟨hbusy, hdone⟩ := exec_completes h
  refine ⟨t, h, hbusy, hdone, ?_, ?_, fun v => writeCmd_idle hbusy v⟩
  · obtain ⟨e, he⟩ | ⟨he, -⟩ := exec_outcome h <;> rw [he]
    · exact e.code_legal
    · exact Nat.zero_le 6
  · intro h0
    obtain ⟨e, he⟩ | ⟨-, hinfo⟩ := exec_outcome h
    · exact absurd (he.symm.trans h0) e.code_ne_zero
    · exact hinfo

section
variable {s t : State} {i : Instr} {need : Nat} {short : ErrKind} {use : State → State}

/-! ## The request on the source port (R86) -/

/-- A command that reads the source makes its one request when the source is available. -/
theorem withSource_requests (huse : ∀ a, (use a).requests = a.requests) :
    (withSource need short use s).requests = s.requests ++ if s.latch.srcEn then [⟨s.latch.addr, need⟩] else [] := by
  obtain ⟨hen, e⟩ | ⟨hen, -, e⟩ | ⟨hen, -, e⟩ := withSource_cases need short use s <;> rw [e, hen]
  · exact (List.append_nil _).symm
  · rfl
  · exact huse _

/-- ASM fails one of its own two checks, or it is a source request of its grid's bytes. -/
theorem exec_asm_split (w h : BitVec 8) (s : State) :
    (¬ (gridPixels w h ≤ s.fbMaxPixels ∧ s.palCount ≠ 0#5) ∧ ∃ e n, exec (.asm w h) s = .next (raiseError e n s)) ∨
    (gridPixels w h ≤ s.fbMaxPixels ∧ s.palCount ≠ 0#5 ∧
      exec (.asm w h) s = .next (withSource (gridBytes w h) .truncatedTileData (assemble w h) s)) := by
  by_cases hc : s.fbMaxPixels < gridPixels w h
  · exact .inl ⟨fun hok => absurd hc (Nat.not_lt_of_le hok.1), _, _, exec_asm_tooLarge hc⟩
  · have hc := Nat.le_of_not_lt hc
    by_cases hp : s.palCount = 0#5
    · exact .inl ⟨fun hok => hok.2 hp, _, _, exec_asm_empty hc hp⟩
    · exact .inr ⟨hc, hp, exec_asm_loaded hc hp⟩

end

/-- Settles O11: ASM's capacity and palette checks come before its request, and PLOAD and TUNPK have none of their own. -/
theorem requestsOnTheSourcePort : Obligations.RequestsOnTheSourcePort := by
  intro i s t h
  cases i with
  | nop | pclr => cases h; exact (List.append_nil _).symm
  | pload => cases h; exact withSource_requests fun _ => rfl
  | tunpk => cases h; exact withSource_requests fun _ => rfl
  | asm w h' =>
    change t.requests = s.requests ++
      if gridPixels w h' ≤ s.fbMaxPixels ∧ s.palCount ≠ 0#5 ∧ s.latch.srcEn = true then [⟨s.latch.addr, gridBytes w h'⟩] else []
    obtain ⟨hno, e, n, hx⟩ | ⟨hc, hp, hx⟩ := exec_asm_split w h' s <;> cases h.symm.trans hx
    · rw [if_neg fun hall => hno ⟨hall.1, hall.2.1⟩]
      exact (List.append_nil _).symm
    · rw [withSource_requests (use := assemble w h') fun _ => rfl]
      simp [hc, hp]
  | phold w h' =>
    obtain ⟨rfl, -⟩ | ⟨-, rfl⟩ := execPhold_cases h <;> exact (List.append_nil _).symm

section
variable {s t : State} {i : Instr} {need : Nat} {short : ErrKind} {use : State → State}

/-! ## Short buffers (R85) -/

theorem avail_eq_zero {len a n : Nat} (h : len ≤ a) : avail len a n = 0 := if_neg (by omega)

theorem avail_full {len a n : Nat} (h : a + n ≤ len) (hn : n ≠ 0) : avail len a n = n := by
  have hle := avail_le len a n
  have hlt := (avail_lt_iff (len := len) (a := a) hn).not
  omega

/-- A request past the end of the source ends in an error. -/
theorem withSource_err_of_short (hn : need ≠ 0) (hs : s.latch.srcLen.toNat < s.latch.addr.toNat + need) :
    (withSource need short use s).err ≠ 0#4 := by
  cases hen : s.latch.srcEn with
  | false =>
    rw [withSource_unavailable hen]
    exact raiseError_ne_zero _ _ _
  | true =>
    rw [withSource_short hen hn hs]
    exact raiseError_ne_zero _ _ _

/-- A command whose bytes are not all there ends in an error. -/
theorem exec_err_of_short (hi : i.wf = true) (hneed : sourceNeed i = some need)
    (hs : s.latch.srcLen.toNat < s.latch.addr.toNat + need) (h : exec i s = .next t) : t.err ≠ 0#4 := by
  cases i with
  | nop | pclr | phold _ _ => cases hneed
  | pload => cases hneed; cases h; exact withSource_err_of_short (by decide) hs
  | tunpk => cases hneed; cases h; exact withSource_err_of_short (by decide) hs
  | asm w h' =>
    cases hneed
    obtain ⟨hw, hh⟩ : gridWf w h' := of_decide_eq_true hi
    obtain ⟨-, e, n, hx⟩ | ⟨-, -, hx⟩ := exec_asm_split w h' s <;> cases h.symm.trans hx
    · exact raiseError_ne_zero e n s
    · exact withSource_err_of_short (gridBytes_ne_zero hw hh) hs

end

/-- Settles O12: Avail's three cases, and a short buffer ends in an error, which writes no result. -/
theorem shortBuffersAreNeverDecoded : Obligations.ShortBuffersAreNeverDecoded := by
  refine ⟨fun len a n h => ?_, fun len a n => avail_eq_zero, fun len a n h => ?_, fun i s t need hi hneed hs h => ?_⟩
  · by_cases hn : n = 0
    · exact .inr hn
    · exact .inl ((avail_lt_iff hn).2 h)
  · by_cases hn : n = 0
    · exact .inr hn
    · exact .inl (avail_full h hn)
  · have herr := exec_err_of_short hi hneed hs h
    obtain ⟨e, n, q, rfl⟩ := exec_error h herr
    exact ⟨herr, rfl, rfl, rfl, rfl, rfl, rfl, rfl, rfl, rfl, rfl, rfl⟩

section
variable {s t : State} {i : Instr} {need : Nat} {short : ErrKind} {use : State → State}

/-! ## The frame of every command (R114) -/

/-- The frame buffer with the registers of its image. -/
def imageOf (s : State) : List Rgb × BitVec 2 × BitVec 8 × BitVec 8 × Word × BitVec 16 × BitVec 16 :=
  (s.fb, s.fbKind, s.fbGridW, s.fbGridH, s.fbOff, s.fbDimW, s.fbDimH)

theorem imageOf_eq_iff :
    imageOf t = imageOf s ↔ t.fb = s.fb ∧ t.fbKind = s.fbKind ∧ t.fbGridW = s.fbGridW ∧ t.fbGridH = s.fbGridH ∧
      t.fbOff = s.fbOff ∧ t.fbDimW = s.fbDimW ∧ t.fbDimH = s.fbDimH := by
  simp [imageOf]

/-- Only PLOAD writes palette entries (spec/92_eei_decisions.md D35). -/
theorem exec_keeps_pal (h : exec i s = .next t) (hi : i ≠ .pload) : t.pal = s.pal := by
  obtain ⟨_, _, _, rfl⟩ | ⟨-, rfl⟩ | ⟨rfl, -⟩ | ⟨-, rfl⟩ | ⟨-, rfl⟩ | ⟨_, _, -, -, -, rfl⟩ | ⟨_, _, -, -, rfl⟩ := exec_cases h
  case inr.inr.inl => exact absurd rfl hi
  all_goals rfl

/-- Only TUNPK writes the tile index buffer (spec/41_tile_unpacker.md R163). -/
theorem exec_keeps_tidx (h : exec i s = .next t) (hi : i ≠ .tunpk) : t.tidx = s.tidx := by
  obtain ⟨_, _, _, rfl⟩ | ⟨-, rfl⟩ | ⟨-, rfl⟩ | ⟨-, rfl⟩ | ⟨rfl, -⟩ | ⟨_, _, -, -, -, rfl⟩ | ⟨_, _, -, -, rfl⟩ := exec_cases h
  case inr.inr.inr.inr.inl => exact absurd rfl hi
  all_goals rfl

/-- Only ASM and PHOLD write the image (spec/42_raster_assembler.md R186). -/
theorem exec_keeps_image (h : exec i s = .next t) (hi : ∀ w h, i ≠ .asm w h ∧ i ≠ .phold w h) : imageOf t = imageOf s := by
  obtain ⟨_, _, _, rfl⟩ | ⟨-, rfl⟩ | ⟨-, rfl⟩ | ⟨-, rfl⟩ | ⟨-, rfl⟩ | ⟨w, h', rfl, -⟩ | ⟨w, h', rfl, -⟩ := exec_cases h
  case inr.inr.inr.inr.inr.inl => exact absurd rfl (hi w h').1
  case inr.inr.inr.inr.inr.inr => exact absurd rfl (hi w h').2
  all_goals rfl

end

/-- Settles O13: the results by the command that writes each, the rest by the frame of all commands. -/
theorem commandsWriteOnlyTheirOwnResult : Obligations.CommandsWriteOnlyTheirOwnResult := by
  intro i s t h
  obtain ⟨hen, hovr, hcmd, haddr, hlen, hlatch, hcap, hsrc, hdata, hdraws, hhost, hevents⟩ := exec_frame h
  refine ⟨exec_keeps_pal h, fun hload hclr => ?_, exec_keeps_tidx h, fun hi => imageOf_eq_iff.1 (exec_keeps_image h hi), hen, hovr,
    hcmd, haddr, hlen, hlatch, hcap, fun a => congrFun (srcRead_of_src hsrc) a, hsrc, hdata, hdraws, hhost, hevents⟩
  exact (paletteOf_eq_iff.1 ((exec_keeps_palette h).resolve_right (not_or.2 ⟨hload, hclr⟩))).2

/-! ## The engine's step (R213) -/

theorem complete_of_decode {s : State} {i : Instr} (hd : decode s.latch.cmd = .ok i) : complete s = exec i s := by
  rw [complete, hd]

/-- A BUSY engine's turn is the completion of its command. -/
theorem step_engine {s : State} {i : Instr} {rest : List Event} (hb : s.busy = true) (hd : decode s.latch.cmd = .ok i)
    (he : s.events = .engine :: rest) : step s = exec i { s with events := rest } := by
  rw [step_event he]
  exact (if_pos hb).trans (complete_of_decode (s := { s with events := rest }) hd)

/-- Settles O6: the engine's turn and the quiet turn of a BUSY machine are both its completion. -/
theorem stepRunsTheDecodedCommand : Obligations.StepRunsTheDecodedCommand := fun _ _ hb hd =>
  ⟨fun he => (step_complete he hb).trans (complete_of_decode hd), fun _ he => step_engine hb hd he⟩

theorem decode_of_decodeTableWord {nbits w : Nat} {i : Instr} (h : decodeTableWord nbits w = some i) :
    decode (tableWord nbits w) = .ok i := by
  unfold decodeTableWord at h
  split at h
  · cases hd : decode (tableWord nbits w) with
    | ok j => rw [hd] at h; cases h; rfl
    | error e => rw [hd] at h; cases h
  · cases h

/-- Settles O7: a placed word is accepted, BUSY and latched, with the engine's turn as the next input. -/
theorem placedWordRunsNext : Obligations.PlacedWordRunsNext := fun s nbits w _ h =>
  step_engine (s := s.withFetchWord nbits w) rfl (decode_of_decodeTableWord h) rfl

/-! ## The first commands after reset (spec/70_reset_and_hazards.md R282) -/

/-- Settles O36: after reset the source is unavailable and the palette empty; with SRC_EN set the source is there but empty. -/
theorem firstCommandsAfterReset : Obligations.FirstCommandsAfterReset := by
  refine ⟨⟨_, (ploadErrorsKeepThePalette _).1 rfl, rfl, rfl⟩, ⟨_, (tunpkErrorsKeepTheTile _).1 rfl, rfl, rfl⟩,
    ⟨_, (ploadErrorsKeepThePalette _).2 rfl (by decide), rfl, rfl⟩,
    ⟨_, (tunpkErrorsKeepTheTile _).2 rfl (by decide), rfl, rfl⟩, fun w h hwh => ⟨_, exec_asm_empty ?_ rfl, rfl, rfl⟩⟩
  exact Nat.le_of_not_lt fun hlt => absurd ((default_capacity_lt_gridPixels_iff w h).1 hlt) (Nat.not_lt_of_le hwh)

end Sys2Proof.Machine
end

section
/-! PROOFS. Colours (spec/40_palette.md R141; spec/42_raster_assembler.md R194) and PLOAD's palette (R142, R143). -/

namespace Sys2Proof.Machine

/-! ## Colours (R141, R194) -/

theorem col15_r_mask (c : BitVec 16) : (col15 c).r.toNat = (c.toNat &&& 0x001F) * 8 := by
  rw [col15_r, and_31, Nat.mul_comm]

theorem col15_g_mask (c : BitVec 16) : (col15 c).g.toNat = ((c.toNat &&& 0x03E0) >>> 5) * 8 := by
  rw [col15_g, show (0x03E0 : Nat) = 0x1F <<< 5 from rfl, and_31_shifted]
  omega

theorem col15_b_mask (c : BitVec 16) : (col15 c).b.toNat = ((c.toNat &&& 0x7C00) >>> 10) * 8 := by
  rw [col15_b, show (0x7C00 : Nat) = 0x1F <<< 10 from rfl, and_31_shifted]
  omega

/-- A five-bit field above three zero bits, as a number. -/
theorem toNat_field_shifted (c : BitVec 16) (lo : Nat) : (c.extractLsb' lo 5 ++ 0#3).toNat = 8 * (c.toNat / 2 ^ lo % 32) := by
  rw [toNat_append_mul, toNat_field]
  exact Nat.mul_comm _ 8

/-- The low 15 bits do not see bit 15. -/
theorem toNat_or_bit15 (c : BitVec 16) : (c ||| 0x8000#16).toNat % 2 ^ 15 = c.toNat % 2 ^ 15 := by
  rw [BitVec.toNat_or, Nat.or_mod_two_pow]
  exact Nat.or_zero _

theorem col15_or_bit15 (c : BitVec 16) : col15 (c ||| 0x8000#16) = col15 c := by
  have hlow := toNat_or_bit15 c
  refine Rgb.ext_toNat ?_ ?_ ?_
  · rw [col15_r, col15_r]; omega
  · rw [col15_g, col15_g]; omega
  · rw [col15_b, col15_b]; omega

/-- Settles O17: each channel is a five-bit field of the word's low 15 bits, times 8. -/
theorem colourDecodesByItsFormulas : Obligations.ColourDecodesByItsFormulas := by
  intro c
  refine ⟨BitVec.eq_of_toNat_eq ?_, BitVec.eq_of_toNat_eq ?_, BitVec.eq_of_toNat_eq ?_, col15_r_mask c, col15_g_mask c,
    col15_b_mask c, ?_, ?_, ?_, scaled_col15 c, col15_or_bit15 c⟩
  · rw [col15_r, toNat_field_shifted]; omega
  · rw [col15_g, toNat_field_shifted]; omega
  · rw [col15_b, toNat_field_shifted]; omega
  · rw [col15_r]; omega
  · rw [col15_g]; omega
  · rw [col15_b]; omega

/-- Settles O31: 170 is no multiple of 8, and every channel of a decoded colour is one. -/
theorem noDecodedColourIsTheSentinel : Obligations.NoDecodedColourIsTheSentinel := by
  refine ⟨rfl, fun c => ?_, fun c hc => ?_⟩
  · have := c.r.isLt
    have := c.g.isLt
    have := c.b.isLt
    rw [rgbWord_toNat]
    omega
  · have hs := scaled_col15 c
    rw [hc] at hs
    exact absurd hs (by decide)

/-! ## PLOAD (R142, R143) -/

section
variable {s : State}

theorem exec_pload_full (hen : s.latch.srcEn = true) (hs : s.latch.addr.toNat + 32 ≤ s.latch.srcLen.toNat) :
    exec .pload s = .next (succeed (loadPalette (request 32 s))) := congrArg Host.Outcome.next (withSource_full hen hs)

theorem loadPalette_entry (j : Fin 16) : (loadPalette s).pal[j] = col15 (srcRead16 s (s.latch.addr.toNat + 2 * j.val)) := by
  simp only [loadPalette_pal, Fin.getElem_fin, Vector.getElem_ofFn]
  rfl

theorem regValue_pal_of_loaded (h : s.palCount = 16#5) (j : Fin 16) : regValue s (.pal j) = rgbWord s.pal[j] := if_pos h

end

/-- Settles O18: the request is answered in full, and entry j is the decoding of a little-endian half word. -/
theorem ploadLoadsThePalette : Obligations.PloadLoadsThePalette := by
  intro s hen hs
  refine ⟨_, exec_pload_full hen hs, fun j c hc => ?_, rfl⟩
  have hword : (srcRead16 s (s.latch.addr.toNat + 2 * j.val)).toNat = c := (srcRead16_toNat s _).trans hc.symm
  have hentry : (succeed (loadPalette (request 32 s))).pal[j] = col15 (srcRead16 s (s.latch.addr.toNat + 2 * j.val)) :=
    loadPalette_entry j
  refine ⟨?_, ?_, ?_, regValue_pal_of_loaded rfl j⟩ <;> rw [hentry]
  · rw [col15_r, hword]
  · rw [col15_g, hword]
  · rw [col15_b, hword]

end Sys2Proof.Machine
end

section
/-! PROOFS. The tile unpacker: TUNPK's indices (spec/41_tile_unpacker.md R161 to R163) and the rows that read them back (R166). -/

namespace Sys2Proof.Machine

section
variable {s : State}

theorem exec_tunpk_full (hen : s.latch.srcEn = true) (hs : s.latch.addr.toNat + 32 ≤ s.latch.srcLen.toNat) :
    exec .tunpk s = .next (succeed (loadTile (request 32 s))) := congrArg Host.Outcome.next (withSource_full hen hs)

theorem unpack_get (t : Nat → Byte) (r : Fin 8) {c : Nat} (hc : c < 8) : (unpack t)[r][c] = unpackAt t r.val c := by
  simp [unpack]

/-- An even column is the low nibble of its byte, an odd one the high nibble (R161). -/
theorem unpackAt_even (t : Nat → Byte) (r j : Nat) : (unpackAt t r (2 * j)).toNat = (t (4 * r + j)).toNat % 16 := by
  rw [unpackAt, and_1, Nat.mul_mod_right, nibbleOf_low, Nat.shiftRight_eq_div_pow, Nat.pow_one,
    Nat.mul_div_cancel_left j Nat.two_pos]

theorem unpackAt_odd (t : Nat → Byte) (r j : Nat) : (unpackAt t r (2 * j + 1)).toNat = (t (4 * r + j)).toNat / 16 := by
  have hmod : (2 * j + 1) % 2 = 1 := by omega
  have hdiv : (2 * j + 1) / 2 = j := by omega
  rw [unpackAt, and_1, hmod, nibbleOf_high, Nat.shiftRight_eq_div_pow, Nat.pow_one, hdiv]

end

/-- Settles O21: the request is answered in full, and the tile is unpacked byte by byte. -/
theorem tunpkUnpacksTheTile : Obligations.TunpkUnpacksTheTile := by
  intro s hen hs
  refine ⟨_, exec_tunpk_full hen hs, fun r j hj b hb => ?_, rfl⟩
  have hget {c : Nat} (hc : c < 8) : (succeed (loadTile (request 32 s))).tidx[r][c] = unpackAt (latchByte s) r.val c :=
    unpack_get _ r hc
  rw [hget (by omega), hget (by omega), unpackAt_even, unpackAt_odd, hb]
  exact ⟨rfl, rfl⟩

section
variable {s : State}

/-- A row packs its four bytes, the first lowest: two nibbles make a byte. -/
theorem packRow_unpack (t : Nat → Byte) (r : Fin 8) :
    packRow (unpack t)[r] = t (4 * r.val + 3) ++ t (4 * r.val + 2) ++ t (4 * r.val + 1) ++ t (4 * r.val) := by
  have pair (j : Nat) (hj : 2 * j + 1 < 8) :
      ((unpack t)[r][2 * j]).toNat + 16 * ((unpack t)[r][2 * j + 1]).toNat = (t (4 * r.val + j)).toNat := by
    rw [unpack_get t r (by omega), unpack_get t r hj, unpackAt_even, unpackAt_odd]
    omega
  have p0 : ((unpack t)[r][0]).toNat + 16 * ((unpack t)[r][1]).toNat = (t (4 * r.val)).toNat := pair 0 (by decide)
  have p1 : ((unpack t)[r][2]).toNat + 16 * ((unpack t)[r][3]).toNat = (t (4 * r.val + 1)).toNat := pair 1 (by decide)
  have p2 : ((unpack t)[r][4]).toNat + 16 * ((unpack t)[r][5]).toNat = (t (4 * r.val + 2)).toNat := pair 2 (by decide)
  have p3 : ((unpack t)[r][6]).toNat + 16 * ((unpack t)[r][7]).toNat = (t (4 * r.val + 3)).toNat := pair 3 (by decide)
  refine BitVec.eq_of_toNat_eq ?_
  simp only [packRow_toNat, toNat_append_mul]
  omega

end

/-- Settles O24: TIDX_ROW packs the unpacked row again. -/
theorem tileRowReadsBackItsBytes : Obligations.TileRowReadsBackItsBytes := fun _ r hen hs =>
  ⟨_, exec_tunpk_full hen hs, packRow_unpack _ r⟩

end Sys2Proof.Machine
end

section
/-! PROOFS. The raster assembler of spec/42_raster_assembler.md: the mapper against the unpacker (R182), the scan loop against the
closed form (R181, R184), and the images of ASM (R185, R186) and PHOLD (R192). -/

namespace Sys2Proof.Machine

/-! ## The mapper (R182) -/

theorem nibbleOf_toNat (b : Byte) (k : Nat) : (nibbleOf b k).toNat = b.toNat / 2 ^ (4 * k) % 16 := by
  simp only [nibbleOf, and_15, BitVec.toNat_ofNat, Nat.shiftRight_eq_div_pow, Nat.mod_mod]

/-- The nibble of the byte `4r + c/2` of a tile, selected by the parity of the column. -/
theorem unpackAt_eq_nibbleOf (t : Nat → Byte) (r c : Nat) : unpackAt t r c = nibbleOf (t (4 * r + c / 2)) (c % 2) := by
  rw [unpackAt, and_1, Nat.shiftRight_eq_div_pow, Nat.pow_one]

theorem pixelIndex_eq_unpackAt (t : Nat → Byte) (a w x y : Nat) :
    pixelIndex t a w x y = unpackAt (gridTile t a w (y / 8) (x / 8)) (y % 8) (x % 8) := by
  rw [unpackAt_eq_nibbleOf, pixelIndex, mapAddr, mapNibble, gridTile, ← Nat.add_assoc]

/-- Settles O25: the mapper's byte is the tile's byte, and both select its nibble by the column's parity. -/
theorem mapperAgreesWithUnpacker : Obligations.MapperAgreesWithUnpacker := fun t a w x y =>
  ⟨nibbleOf_toNat _ _, pixelIndex_eq_unpackAt t a w x y⟩

/-! ## The scan loop (R181, R184) -/

/-- Two nested loops are one loop over quotient and remainder. -/
theorem flatMap_range_flatMap_range {α : Type} (g : Nat → Nat → List α) (m n : Nat) :
    (List.range m).flatMap (fun i => (List.range n).flatMap (g i)) =
      (List.range (m * n)).flatMap fun k => g (k / n) (k % n) := by
  induction m with
  | zero => simp
  | succ m ih =>
    have hlast : (List.range n).flatMap (g m) = (List.range n).flatMap fun j => g ((m * n + j) / n) ((m * n + j) % n) := by
      refine List.flatMap_congr fun j hj => ?_
      obtain ⟨hmod, hdiv⟩ := pixel_position (y := m) (List.mem_range.1 hj)
      rw [hmod, hdiv]
    rw [Nat.succ_mul, List.range_succ, List.range_add, List.flatMap_append, List.flatMap_append, ih, List.flatMap_singleton,
      hlast, List.flatMap_map]

/-- The same with a list of one value in the inner loop. -/
theorem flatMap_range_map_range {α : Type} (g : Nat → Nat → α) (m n : Nat) :
    (List.range m).flatMap (fun i => (List.range n).map (g i)) = (List.range (m * n)).map fun k => g (k / n) (k % n) := by
  simpa only [List.flatMap_pure_eq_map, List.map_eq_flatMap] using flatMap_range_flatMap_range (fun i j => [g i j]) m n

/-- One line of the scan, tile column by tile column, is the pixels of the line. -/
theorem scan_line (t : Nat → Byte) (a w y : Nat) :
    ((List.range w).flatMap fun tc => (List.range 8).map fun c => unpackAt (gridTile t a w (y / 8) tc) (y % 8) c) =
      (List.range (w * 8)).map fun x => pixelIndex t a w x y := by
  rw [flatMap_range_map_range fun tc c => unpackAt (gridTile t a w (y / 8) tc) (y % 8) c]
  exact List.map_congr_left fun x _ => (pixelIndex_eq_unpackAt t a w x y).symm

/-- Settles O26: tile rows and sub-rows make the image's lines, and lines of pixels make its raster. -/
theorem scanLoopEqualsClosedForm : Obligations.ScanLoopEqualsClosedForm := by
  intro t a w h
  have hsize : h * 8 * (w * 8) = 64 * w * h := by ring
  have hline : w * 8 = 8 * w := Nat.mul_comm w 8
  unfold scanIndices
  rw [flatMap_range_flatMap_range fun tr sr =>
    (List.range w).flatMap fun tc => (List.range 8).map fun c => unpackAt (gridTile t a w tr tc) sr c]
  simp only [scan_line]
  rw [flatMap_range_map_range fun y x => pixelIndex t a w x y, hsize, hline]
  rfl

/-! ## The image registers (spec/10_state.md R47, R49, R53) -/

section
variable {s : State} {k : Nat}

theorem regValue_fb_of_lt (hk : k < imagePixels s) : regValue s (.fb k) = rgbWord (fbEntry s k) := if_pos hk

theorem regValue_fb_of_ge (hk : imagePixels s ≤ k) : regValue s (.fb k) = 0#32 := if_neg (Nat.not_lt_of_le hk)

theorem regValue_fbGrid_toNat (s : State) : (regValue s .fbGrid).toNat = 256 * s.fbGridH.toNat + s.fbGridW.toNat := by
  simp only [regValue, toNat_append_mul]
  simp
  omega

theorem regValue_fbDim_toNat (s : State) : (regValue s .fbDim).toNat = 65536 * s.fbDimH.toNat + s.fbDimW.toNat := by
  simp only [regValue, toNat_append_mul]
  omega

end

section
variable {s : State} {kind : BitVec 2} {w h : BitVec 8} {px : List Rgb} {k : Nat}

/-- An entry of an image that a command has just written, and its register. -/
theorem written_pixel (hlen : px.length = gridPixels w h) (hk : k < px.length) :
    fbEntry (succeed (writeImage kind w h px s)) k = px[k] ∧
      regValue (succeed (writeImage kind w h px s)) (.fb k) = rgbWord px[k] := by
  have hentry : fbEntry (succeed (writeImage kind w h px s)) k = px[k] := by
    rw [fbEntry_succeed, fbEntry_writeImage, dif_pos hk]
  refine ⟨hentry, ?_⟩
  rw [regValue_fb_of_lt (by rwa [imagePixels_succeed, imagePixels_writeImage, ← hlen]), hentry]

/-- The entries past the image keep their values, and no register shows them. -/
theorem past_image (hlen : px.length = gridPixels w h) (hk : gridPixels w h ≤ k) :
    fbEntry (succeed (writeImage kind w h px s)) k = fbEntry s k ∧
      regValue (succeed (writeImage kind w h px s)) (.fb k) = 0#32 := by
  refine ⟨?_, regValue_fb_of_ge (by rwa [imagePixels_succeed, imagePixels_writeImage])⟩
  rw [fbEntry_succeed, fbEntry_writeImage, dif_neg (by omega)]

/-- FB_GRID and FB_DIM of an image that a command has just written. -/
theorem written_dims :
    (regValue (succeed (writeImage kind w h px s)) .fbGrid).toNat = 256 * h.toNat + w.toNat ∧
      (regValue (succeed (writeImage kind w h px s)) .fbDim).toNat = 65536 * (8 * h.toNat) + 8 * w.toNat := by
  refine ⟨regValue_fbGrid_toNat _, ?_⟩
  rw [regValue_fbDim_toNat, succeed_fbDimH, succeed_fbDimW, writeImage_fbDimH, writeImage_fbDimW, sidePixels_ofNat,
    sidePixels_ofNat]
  rfl

end

/-! ## ASM (R185, R186) -/

section
variable {s : State} {w h : BitVec 8}

theorem exec_asm_full (hc : gridPixels w h ≤ s.fbMaxPixels) (hp : s.palCount ≠ 0#5) (hen : s.latch.srcEn = true)
    (hs : s.latch.addr.toNat + gridBytes w h ≤ s.latch.srcLen.toNat) :
    exec (.asm w h) s = .next (succeed (assemble w h (request (gridBytes w h) s))) := by
  rw [exec_asm_loaded hc hp, withSource_full hen hs]

/-- The raster position of a pixel of the grid lies in the image. -/
theorem raster_lt {x y : Nat} (hx : x < 8 * w.toNat) (hy : y < 8 * h.toNat) : y * (8 * w.toNat) + x < gridPixels w h :=
  calc y * (8 * w.toNat) + x < y * (8 * w.toNat) + 8 * w.toNat := Nat.add_lt_add_left hx _
    _ = (y + 1) * (8 * w.toNat) := (Nat.succ_mul y _).symm
    _ ≤ 8 * h.toNat * (8 * w.toNat) := Nat.mul_le_mul_right _ hy
    _ = gridPixels w h := by simp only [gridPixels]; ring

/-- Pixel (x, y) of a decoded image is the palette's colour for the mapper's nibble. -/
theorem decodedImage_pixel {x y : Nat} (hx : x < 8 * w.toNat) (hk : y * (8 * w.toNat) + x < (decodedImage s w h).length) :
    (decodedImage s w h)[y * (8 * w.toNat) + x] = palLookup s (pixelIndex (srcRead s) s.latch.addr.toNat w.toNat x y) := by
  obtain ⟨hmod, hdiv⟩ := pixel_position (y := y) hx
  rw [getElem_decodedImage, hmod, hdiv]

/-- The mapper's nibble by the column's parity: the low one at an even column, the high one at an odd. -/
theorem pixelIndex_eq_of_parity {t : Nat → Byte} {a w x y : Nat} {n : Nibble}
    (hn : n.toNat = if x % 2 = 0 then (t (mapAddr a w x y)).toNat % 16 else (t (mapAddr a w x y)).toNat / 16) :
    pixelIndex t a w x y = n := by
  refine BitVec.eq_of_toNat_eq ?_
  rw [hn, pixelIndex, mapNibble, Nat.mod_mod_of_dvd x (by decide)]
  obtain hx | hx := Nat.mod_two_eq_zero_or_one x <;> rw [hx]
  · exact nibbleOf_low _
  · exact nibbleOf_high _

end

/-- Settles O27: the image written is the decoded one, and its raster position is the pixel's. -/
theorem asmAssemblesTheImage : Obligations.AsmAssemblesTheImage := by
  intro s w h hc hp hen hs _ _
  have hlen : (decodedImage (request (gridBytes w h) s) w h).length = gridPixels w h := length_decodedImage _ w h
  refine ⟨_, exec_asm_full hc hp hen hs, fun x y b n hx hy hb hn => ?_, fun k hk => past_image hlen hk, rfl, written_dims.1, rfl,
    written_dims.2, rfl⟩
  have hk := raster_lt hx hy
  rw [← hlen] at hk
  obtain ⟨hentry, hreg⟩ := written_pixel (s := request (gridBytes w h) s) (kind := 1) hlen hk
  have hpixel := decodedImage_pixel hx hk
  rw [pixelIndex_eq_of_parity (n := n) (by rw [hn, hb]; rfl)] at hpixel
  exact ⟨hentry.trans hpixel, hreg.trans (congrArg rgbWord hpixel)⟩

/-- Settles O29: every pixel of the image written is the sentinel. -/
theorem pholdFillsThePlaceholder : Obligations.PholdFillsThePlaceholder := by
  intro s w h hc
  have hlen := length_placeholderImage w h
  refine ⟨placeholder w h s, congrArg Host.Outcome.next (withCapacity_fits hc), fun k hk => ?_, fun k hk => past_image hlen hk, rfl,
    written_dims.1, rfl, written_dims.2, rfl⟩
  have hk : k < (placeholderImage w h).length := by rwa [hlen]
  obtain ⟨hentry, hreg⟩ := written_pixel (s := s) (kind := 2) hlen hk
  have hpixel : (placeholderImage w h)[k] = Config.sentinel := List.getElem_replicate _
  exact ⟨hentry.trans hpixel, hreg.trans (congrArg rgbWord hpixel)⟩

end Sys2Proof.Machine
end

section
/-! PROOFS. A completion as a function of what the command reads (spec/43_control.md R213), and completing again (spec/10_state.md
R61): both compare the completions of one command from two states. -/

namespace Sys2Proof.Machine

/-- What a command writes before the common completion writes, when it succeeds. -/
def written : Instr → State → State
  | .nop, s => s
  | .pload, s => loadPalette (request 32 s)
  | .pclr, s => { s with palCount := 0, palOff := 0 }
  | .tunpk, s => loadTile (request 32 s)
  | .asm w h, s => assemble w h (request (gridBytes w h) s)
  | .phold w h, s => writeImage 2 w h (placeholderImage w h) s

section
variable {s t u : State} {i : Instr}

/-! ## The checks see L, the capacity and, for ASM, PAL_COUNT (R254) -/

/-- Two completions of one kind: the same error, or both succeed. -/
def SameEnd (i : Instr) (s t a b : State) : Prop :=
  (∃ e n q r, a = raiseError e n { s with requests := q } ∧ b = raiseError e n { t with requests := r }) ∨
    (a = succeed (written i s) ∧ b = succeed (written i t))

theorem sameEnd_raise (e : ErrKind) (n : Word) : SameEnd i s t (raiseError e n s) (raiseError e n t) :=
  .inl ⟨e, n, s.requests, t.requests, rfl, rfl⟩

theorem withSource_sameEnd (hl : t.latch = s.latch) {need : Nat} {short : ErrKind} {use : State → State}
    (hs : use (request need s) = written i s) (ht : use (request need t) = written i t) :
    SameEnd i s t (withSource need short use s) (withSource need short use t) := by
  unfold withSource latchAvail
  rw [hl, hs, ht]
  split
  · exact sameEnd_raise _ _
  · split
    · exact .inl ⟨_, _, _, _, rfl, rfl⟩
    · exact .inr ⟨rfl, rfl⟩

theorem withCapacity_sameEnd (hc : t.fbMaxPixels = s.fbMaxPixels) {w h : BitVec 8} {go : State → State}
    (hgo : SameEnd i s t (go s) (go t)) : SameEnd i s t (withCapacity w h go s) (withCapacity w h go t) := by
  unfold withCapacity
  rw [hc]
  split
  · exact sameEnd_raise _ _
  · exact hgo

theorem assembleFromPalette_sameEnd (hl : t.latch = s.latch) (hp : t.palCount = s.palCount) (w h : BitVec 8) :
    SameEnd (.asm w h) s t (assembleFromPalette w h s) (assembleFromPalette w h t) := by
  unfold assembleFromPalette
  rw [hp]
  split
  · exact sameEnd_raise _ _
  · exact withSource_sameEnd hl rfl rfl

/-- Completions of one command from states with one L, one capacity and, for ASM, one PAL_COUNT. -/
theorem exec_sameEnd (hl : t.latch = s.latch) (hc : t.fbMaxPixels = s.fbMaxPixels)
    (hp : ∀ w h, i = .asm w h → t.palCount = s.palCount) :
    ∃ a b, exec i s = .next a ∧ exec i t = .next b ∧ SameEnd i s t a b := by
  cases i with
  | nop | pclr => exact ⟨_, _, rfl, rfl, .inr ⟨rfl, rfl⟩⟩
  | pload => exact ⟨_, _, rfl, rfl, withSource_sameEnd hl rfl rfl⟩
  | tunpk => exact ⟨_, _, rfl, rfl, withSource_sameEnd hl rfl rfl⟩
  | asm w h => exact ⟨_, _, rfl, rfl, withCapacity_sameEnd hc (assembleFromPalette_sameEnd hl (hp w h rfl) w h)⟩
  | phold w h => exact ⟨_, _, rfl, rfl, withCapacity_sameEnd hc (.inr ⟨rfl, rfl⟩)⟩

/-! ## Completing again (R61) -/

/-- An image written again is the image. -/
theorem writeImage_fb_again (kind : BitVec 2) (w h : BitVec 8) (px : List Rgb) (s : State) :
    px ++ (writeImage kind w h px s).fb.drop px.length = (writeImage kind w h px s).fb := by
  rw [writeImage_fb, List.drop_left]

/-- The writes of a success, made again: each is a function of L, the source and, for ASM, the palette, which they leave alone. -/
theorem written_again (i : Instr) (s : State) :
    succeed (written i (succeed (written i s))) =
      { succeed (written i s) with requests := (written i (succeed (written i s))).requests } := by
  cases i with
  | nop | pload | pclr | tunpk => rfl
  | asm w h =>
    exact congrArg (fun l => { succeed (written (.asm w h) s) with
      fb := l, requests := (written (.asm w h) (succeed (written (.asm w h) s))).requests })
      (writeImage_fb_again 1 w h (decodedImage s w h) s)
  | phold w h =>
    exact congrArg (fun l => { succeed (written (.phold w h) s) with fb := l })
      (writeImage_fb_again 2 w h (placeholderImage w h) s)

end

/-- Settles O15: the checks answer as before, so the same error is raised again or the same writes are made again. -/
theorem completingAgainWritesTheSame : Obligations.CompletingAgainWritesTheSame := by
  intro i s t u hs ht
  obtain ⟨-, -, -, -, -, hl, hc, -⟩ := exec_frame hs
  have hp : ∀ w h, i = .asm w h → t.palCount = s.palCount := fun w h hi =>
    (paletteOf_eq_iff.1 ((exec_keeps_palette hs).resolve_right (by simp [hi]))).2.1
  obtain ⟨a, b, ha, hb, hend⟩ := exec_sameEnd hl hc hp
  cases hs.symm.trans ha
  cases ht.symm.trans hb
  obtain ⟨e, n, q, r, rfl, rfl⟩ | ⟨rfl, rfl⟩ := hend
  · rfl
  · rw [written_again]

section
variable {s t u : State} {i : Instr}

/-! ## The bytes a command reads (R213) -/

/-- The states agree on what a command with `n` bytes to read sees: L, the palette and those bytes. -/
structure SameInputs (s t : State) (n : Nat) : Prop where
  latch : s.latch = t.latch
  pal : s.pal = t.pal
  bytes : sameBytes s t s.latch.addr.toNat n

theorem SameInputs.byte {n k : Nat} (e : SameInputs s t n) (hk : k < n) :
    srcRead s (s.latch.addr.toNat + k) = srcRead t (t.latch.addr.toNat + k) := by
  rw [e.bytes k hk, e.latch]

theorem SameInputs.paletteEntry (e : SameInputs s t 32) (j : Fin 16) : paletteEntry s j.val = paletteEntry t j.val := by
  have hlow := e.byte (k := 2 * j.val) (by omega)
  have hhigh := e.byte (k := 2 * j.val + 1) (by omega)
  rw [← Nat.add_assoc, ← Nat.add_assoc] at hhigh
  rw [Machine.paletteEntry, srcRead16, hlow, hhigh]
  rfl

theorem SameInputs.loadPalette_pal (e : SameInputs s t 32) : (loadPalette s).pal = (loadPalette t).pal := by
  rw [Machine.loadPalette_pal, Machine.loadPalette_pal]
  exact congrArg Vector.ofFn (funext e.paletteEntry)

theorem SameInputs.unpack (e : SameInputs s t 32) : unpack (latchByte s) = unpack (latchByte t) := by
  refine congrArg Vector.ofFn (funext fun r => congrArg Vector.ofFn (funext fun c => ?_))
  rw [unpackAt_eq_nibbleOf, unpackAt_eq_nibbleOf]
  exact congrArg (nibbleOf · _) (e.byte (by omega))

/-- The mapper stays inside the grid's bytes. -/
theorem mapAddr_lt {a w h x y : Nat} (hx : x < 8 * w) (hy : y < 8 * h) : mapAddr a w x y < a + 32 * w * h := by
  have htile : y / 8 * w + x / 8 < w * h :=
    calc y / 8 * w + x / 8 < y / 8 * w + w := by omega
      _ = (y / 8 + 1) * w := (Nat.succ_mul _ _).symm
      _ ≤ h * w := Nat.mul_le_mul_right w (by omega)
      _ = w * h := Nat.mul_comm h w
  rw [mapAddr, Nat.mul_assoc 32]
  omega

theorem SameInputs.pixel {w h : BitVec 8} (e : SameInputs s t (gridBytes w h)) {x y : Nat} (hx : x < 8 * w.toNat)
    (hy : y < 8 * h.toNat) :
    palLookup s (pixelIndex (srcRead s) s.latch.addr.toNat w.toNat x y) =
      palLookup t (pixelIndex (srcRead t) t.latch.addr.toNat w.toNat x y) := by
  have hlt : mapAddr 0 w.toNat x y < gridBytes w h := by
    simpa [gridBytes] using mapAddr_lt (a := 0) hx hy
  have hat (a : Nat) : mapAddr a w.toNat x y = a + mapAddr 0 w.toNat x y := by
    simp only [mapAddr]
    omega
  unfold palLookup pixelIndex
  rw [hat, hat t.latch.addr.toNat, e.byte hlt, e.pal]

theorem SameInputs.decodedImage {w h : BitVec 8} (e : SameInputs s t (gridBytes w h)) :
    decodedImage s w h = decodedImage t w h := by
  refine List.ext_getElem (by simp) fun k hk _ => ?_
  rw [getElem_decodedImage, getElem_decodedImage]
  rw [length_decodedImage, ← gridPixels_eq_sides] at hk
  have hw : 0 < sidePixels w := Nat.pos_of_ne_zero fun h0 => by simp [h0] at hk
  exact e.pixel (Nat.mod_lt k hw) (Nat.div_lt_of_lt_mul hk)

/-! ## What a success writes, from equal inputs -/

theorem written_pal (e : SameInputs s t ((sourceNeed i).getD 0)) : (written i s).pal = (written i t).pal := by
  cases i with
  | pload => exact SameInputs.loadPalette_pal (s := request 32 s) (t := request 32 t) ⟨e.latch, e.pal, e.bytes⟩
  | _ => exact e.pal

theorem written_palCount (hp : s.palCount = t.palCount) : (written i s).palCount = (written i t).palCount := by
  cases i with
  | pload | pclr => rfl
  | _ => exact hp

theorem written_palOff (hl : s.latch = t.latch) (hi : i = .pload ∨ i = .pclr) : (written i s).palOff = (written i t).palOff := by
  obtain rfl | rfl := hi
  · exact congrArg Latch.addr hl
  · rfl

theorem written_image (e : SameInputs s t ((sourceNeed i).getD 0)) {w h : BitVec 8} (hi : i = .asm w h ∨ i = .phold w h) :
    ∃ kind px, px.length = gridPixels w h ∧ (∃ q, written i s = writeImage kind w h px { s with requests := q }) ∧
      ∃ r, written i t = writeImage kind w h px { t with requests := r } := by
  obtain rfl | rfl := hi
  · have himage : Machine.decodedImage (request (gridBytes w h) s) w h = Machine.decodedImage (request (gridBytes w h) t) w h :=
      SameInputs.decodedImage ⟨e.latch, e.pal, e.bytes⟩
    refine ⟨1, _, length_decodedImage (request (gridBytes w h) s) w h, ⟨(request (gridBytes w h) s).requests, rfl⟩,
      (request (gridBytes w h) t).requests, ?_⟩
    rw [himage]
    rfl
  · exact ⟨2, _, length_placeholderImage w h, ⟨s.requests, rfl⟩, t.requests, rfl⟩

end

/-- Settles O14: the checks and the writes of a command see L, the palette, the capacity and the bytes it reads. -/
theorem completionDependsOnlyOnItsInputs : Obligations.CompletionDependsOnlyOnItsInputs := by
  intro i s t hl hpal hp hc hbytes
  have e : SameInputs s t ((sourceNeed i).getD 0) := ⟨hl, hpal, hbytes⟩
  obtain ⟨a, b, ha, hb, ⟨k, n, q, r, rfl, rfl⟩ | ⟨rfl, rfl⟩⟩ := exec_sameEnd (i := i) hl.symm hc.symm fun _ _ _ => hp.symm
  · have hk : (raiseError k n { s with requests := q }).err ≠ 0#4 := raiseError_ne_zero k n _
    exact ⟨_, _, ha, hb, rfl, rfl, rfl, rfl, hpal, hp, fun _ h0 => absurd h0 hk, fun _ h0 => absurd h0 hk,
      fun _ _ _ h0 => absurd h0 hk⟩
  · refine ⟨_, _, ha, hb, rfl, rfl, rfl, rfl, written_pal e, written_palCount hp, fun hi _ => written_palOff hl hi, ?_, ?_⟩
    · rintro rfl -
      exact SameInputs.unpack (s := request 32 s) (t := request 32 t) ⟨hl, hpal, hbytes⟩
    · intro w h hi _
      obtain ⟨kind, px, hlen, ⟨q, hs⟩, r, ht⟩ := written_image e hi
      rw [hs, ht]
      refine ⟨rfl, rfl, rfl, congrArg Latch.addr hl, rfl, rfl, fun j hj => ?_⟩
      have hj : j < px.length := hlen ▸ hj
      rw [(written_pixel hlen hj).1, (written_pixel hlen hj).1]

end Sys2Proof.Machine
end

section
/-! PROOFS. The MMIO window: the register map (spec/10_state.md R33), the values of the registers (R34 to R53), and reads and writes of
a register by another host context (spec/20_memory.md R91 to R93). -/

namespace Sys2Proof.Machine

/-! ## The register map (R33) -/

/-- The thirteen registers below 0x40 stand one word after the other. -/
theorem offset_of_lowReg {n : Nat} {r : Reg} (h : lowReg n = some r) : r.offset = 4 * n := by
  have hn : n < 13 := (List.getElem?_eq_some_iff.1 h).1
  interval_cases n <;> cases h <;> rfl

/-- The map answers at an aligned offset the register whose offset it is. -/
theorem offset_of_regAt {cap off : Nat} {r : Reg} (ha : off % 4 = 0) (h : regAt cap off = some r) : r.offset = off := by
  unfold regAt at h
  split at h
  · rw [offset_of_lowReg h]
    omega
  split at h
  · cases h
    simp only [Reg.offset, Fin.val_ofNat]
    omega
  split at h
  · cases h
    simp only [Reg.offset, Fin.val_ofNat]
    omega
  split at h
  · cases h
  split at h
  · cases h
    simp only [Reg.offset]
    omega
  · cases h

/-- Settles O37: the table by its definition, and the map is the inverse of the offsets in both directions. -/
theorem registerMapIsInvertible : Obligations.RegisterMapIsInvertible :=
  ⟨⟨rfl, rfl, rfl, rfl, rfl, rfl, rfl, rfl, rfl, rfl, rfl, rfl, rfl, fun _ => rfl, fun _ => rfl, fun _ => rfl⟩,
    fun _ hc => ⟨fun r hr => ⟨offset_lt hc r hr, offset_aligned r, regAt_offset r hr⟩, fun _ _ ha h => offset_of_regAt ha h⟩⟩

/-! ## Words (R19, R39, R88) -/

/-- Settles O38: STATUS is its fields side by side, and a write to it is `flagsWritten`. -/
theorem statusWordHasItsLayout : Obligations.StatusWordHasItsLayout := fun s => ⟨statusWord_toNat s, fun _ => rfl⟩

theorem laneByte_toNat (v : Word) (j : Nat) : (laneByte v j).toNat = v.toNat / 2 ^ (8 * j) % 256 := toNat_field v (8 * j) 8

/-- Settles O39: a word is its four digits in base 256. -/
theorem wordsAreTheirByteLanes : Obligations.WordsAreTheirByteLanes := by
  refine ⟨rgbWord_toNat, fun v => ?_⟩
  have := v.isLt
  simp only [laneByte_toNat]
  omega

/-! ## An access at a register's offset (R91 to R93) -/

section
variable {s : State} {r : Reg} {rest : List Event}

/-- Inside a SEARCH another context's access to this register is refused (spec/44_host_sprite_reader.md R237). -/
def Reg.isProtected (r : Reg) : Bool := r.isResult || decide (r = .addr) || decide (r = .cmd)

theorem isProtected_eq_false_iff : r.isProtected = false ↔ r ≠ .addr ∧ r ≠ .cmd ∧ r.isResult = false := by
  simp only [Reg.isProtected, Bool.or_eq_false_iff, decide_eq_false_iff_not]
  tauto

theorem isProtected_iff : r.isProtected = true ↔ r = .addr ∨ r = .cmd ∨ r.isResult = true := by
  simp only [Reg.isProtected, Bool.or_eq_true, decide_eq_true_eq]
  tauto

theorem interleaves_offset (hr : regExists s r = true) : interleaves s r.offset = (s.host.inSearch && r.isProtected) := by
  unfold interleaves
  rw [regAt_offset r (regExists_iff.1 hr)]
  rfl

theorem inContract_of_lt (ho : r.offset < 2 ^ 20) : inContract r.offset 32 = true :=
  decide_eq_true ⟨rfl, offset_aligned r, ho⟩

/-- An offset inside the window fits the MMIO port's 20 bits. -/
theorem toNat_offset (ho : r.offset < 2 ^ 20) : (BitVec.ofNat 20 r.offset).toNat = r.offset := by
  rw [BitVec.toNat_ofNat, Nat.mod_eq_of_lt ho]

theorem offset_lt_of_exists (hc : s.fbMaxPixels ≤ 65536) (hr : regExists s r = true) : r.offset < 2 ^ 20 :=
  offset_lt hc r (regExists_iff.1 hr)

/-- Another context's read that no SEARCH forbids reads the register. -/
theorem step_read_reg (ho : r.offset < 2 ^ 20) (hr : regExists s r = true) (hfree : (s.host.inSearch && r.isProtected) = false)
    (he : s.events = .read (BitVec.ofNat 20 r.offset) 32 :: rest) : step s = .next (readReg r { s with events := rest }) := by
  have hfree' : interleaves { s with events := rest } r.offset = false := (interleaves_offset hr).trans hfree
  rw [step_event he, perform, toNat_offset ho, rawRead, hfree', busRead, inContract_of_lt ho,
    regAt_offset r (regExists_iff.1 hr)]
  rfl

/-- Another context's write that no SEARCH forbids writes the register. -/
theorem step_write_reg (ho : r.offset < 2 ^ 20) (hr : regExists s r = true) (hfree : (s.host.inSearch && r.isProtected) = false)
    {v : Word} (he : s.events = .write (BitVec.ofNat 20 r.offset) 32 v :: rest) :
    step s = .next (writeReg r v { s with events := rest }) := by
  have hfree' : interleaves { s with events := rest } r.offset = false := (interleaves_offset hr).trans hfree
  rw [step_event he, perform, toNat_offset ho, rawWrite, hfree', busWrite, inContract_of_lt ho,
    regAt_offset r (regExists_iff.1 hr)]
  rfl

/-- No register shows the inputs to come. -/
theorem regValue_withEvents (s : State) (l : List Event) (r : Reg) : regValue { s with events := l } r = regValue s r := by
  cases r <;> rfl

theorem not_forbidden_of_not_inSearch (h : s.host.inSearch = false) (r : Reg) : (s.host.inSearch && r.isProtected) = false := by
  rw [h, Bool.false_and]

theorem not_forbidden_of_not_protected (h : r.isProtected = false) (s : State) :
    (s.host.inSearch && r.isProtected) = false := by
  rw [h, Bool.and_false]

/-- A read of a register that is defined: BUSY = 0, or no result register. -/
theorem step_read_value (ho : r.offset < 2 ^ 20) (hr : regExists s r = true)
    (hfree : (s.host.inSearch && r.isProtected) = false) (he : s.events = .read (BitVec.ofNat 20 r.offset) 32 :: rest)
    (hdef : s.busy = false ∨ r.isResult = false) : step s = .next { s with events := rest, readData := regValue s r } := by
  rw [step_read_reg ho hr hfree he, readReg_value (s := { s with events := rest }) hdef, regValue_withEvents]

end

/-! ## The values of the registers (R34 to R53) -/

section
variable (s : State)

theorem regValue_ctrl_toNat : (regValue s .ctrl).toNat = s.srcEn.toNat := by
  cases h : s.srcEn <;> simp [regValue, h]

theorem regValue_palCount_toNat : (regValue s .palCount).toNat = s.palCount.toNat :=
  BitVec.toNat_setWidth_of_le (by decide)

theorem regValue_fbKind_toNat : (regValue s .fbKind).toNat = s.fbKind.toNat :=
  BitVec.toNat_setWidth_of_le (by decide)

theorem regValue_fbCap_toNat (hc : s.fbMaxPixels ≤ 65536) : (regValue s .fbCap).toNat = s.fbMaxPixels := by
  rw [regValue, BitVec.toNat_ofNat]
  omega

end

/-- Settles O40: the values register by register, and a permitted read is `readReg`, which answers a defined register's value. -/
theorem readsAnswerTheRegister : Obligations.ReadsAnswerTheRegister := by
  refine ⟨fun s => ⟨regValue_ctrl_toNat s, rfl, rfl, rfl, rfl, regValue_palCount_toNat s, rfl, regValue_fbKind_toNat s,
    regValue_fbGrid_toNat s, rfl, regValue_fbDim_toNat s, regValue_fbCap_toNat s, fun _ => rfl, fun _ => rfl⟩,
    fun s r rest hc hr hfree he hdef => step_read_value (offset_lt_of_exists hc hr) hr ?_ he hdef⟩
  obtain hs | hp := hfree
  · exact not_forbidden_of_not_inSearch hs r
  · exact not_forbidden_of_not_protected (isProtected_eq_false_iff.2 hp) s

theorem isResult_eq_false_iff {r : Reg} : r.isResult = false ↔ r ∈ [Reg.ctrl, .status, .cmd, .addr, .srcLen, .errInfo, .fbCap] := by
  cases r <;> simp [Reg.isResult]

/-- Settles O41: while BUSY a result register's read is a draw, and a read of the seven others is the register's value. -/
theorem busyResultReadsAreFreeDraws : Obligations.BusyResultReadsAreFreeDraws := by
  intro s r rest hc hr he hb
  have ho := offset_lt_of_exists hc hr
  refine ⟨fun hres hs => ?_, fun hres hfree => step_read_value ho hr ?_ he (.inr hres), isResult_eq_false_iff⟩
  · rw [step_read_reg ho hr (not_forbidden_of_not_inSearch hs r) he, readReg_draw (s := { s with events := rest }) hb hres]
  · obtain hs | ⟨haddr, hcmd⟩ := hfree
    · exact not_forbidden_of_not_inSearch hs r
    · exact not_forbidden_of_not_protected (isProtected_eq_false_iff.2 ⟨haddr, hcmd, hres⟩) s

/-! ## Writes of the operands (spec/43_control.md R216) -/

/-- Bit 0 of a word, from its number. -/
theorem getLsbD_zero (v : Word) : v.getLsbD 0 = (v.toNat % 2 == 1) := by
  rw [BitVec.getLsbD, Nat.testBit_eq_decide_div_mod_eq, Nat.pow_zero, Nat.div_one]
  rfl

/-- OVR after a STATUS write (R37). -/
theorem ovr_flagsWritten (v : Word) (s : State) : (flagsWritten v s).ovr = if v.toNat / 4 % 2 = 1 then false else s.ovr := by
  rw [flagsWritten_ovr, getLsbD_two]
  split <;> simp [*]

/-- A register that ignores writes (20_memory.md R93). -/
theorem writeReg_ignored {r : Reg} (h : r ∉ [Reg.ctrl, .status, .cmd, .addr, .srcLen]) (v : Word) (s : State) :
    writeReg r v s = s := by
  cases r with
  | ctrl | status | cmd | addr | srcLen => simp at h
  | _ => rfl

/-- Settles O46: each write reaches its register alone, and an acceptance latches the operands that stand then. -/
theorem operandWritesTakeEffectAtOnce : Obligations.OperandWritesTakeEffectAtOnce := by
  intro s v c rest
  refine ⟨fun he => ⟨_, step_write_reg (r := .ctrl) (by decide) rfl (not_forbidden_of_not_protected rfl s) he, ?_, ?_⟩,
    fun he hs => ⟨_, step_write_reg (r := .addr) (by decide) rfl (not_forbidden_of_not_inSearch hs .addr) he, rfl, rfl⟩,
    fun he => ⟨_, step_write_reg (r := .srcLen) (by decide) rfl (not_forbidden_of_not_protected rfl s) he, rfl, rfl⟩,
    fun he => ?_, fun r hc hr hro hfree he => ?_⟩
  · simp only [writeReg, getLsbD_zero]
  · exact getLsbD_zero v
  · rw [step_write_reg (r := .status) (by decide) rfl (not_forbidden_of_not_protected rfl s) he]
    exact congrArg (fun b => Host.Outcome.next { s with events := rest, ovr := b }) (ovr_flagsWritten v { s with events := rest })
  · rw [step_write_reg (offset_lt_of_exists hc hr) hr ?_ he, writeReg_ignored hro]
    obtain hs | hres := hfree
    · exact not_forbidden_of_not_inSearch hs r
    · refine not_forbidden_of_not_protected (isProtected_eq_false_iff.2 ⟨?_, ?_, hres⟩) s <;> rintro rfl <;> simp at hro

/-! ## Reset (spec/70_reset_and_hazards.md R280, R281) -/

/-- Settles O35: a reset is `applyReset`, from any state. -/
theorem resetDiscardsTheCommandInFlight : Obligations.ResetDiscardsTheCommandInFlight := fun _ _ he =>
  ⟨_, step_event he, rfl, rfl, rfl, fun _ hr => regValue_applyReset _ hr, rfl, fun _ => rfl, rfl, rfl, rfl, rfl, rfl, rfl⟩

end Sys2Proof.Machine
end

section
/-! PROOFS. The rules over every step (spec/10_state.md R34 to R43, R58; spec/20_memory.md R82; spec/43_control.md R219): what each kind
of move does to a part of the block, from one statement of the moves. -/

namespace Sys2Proof.Machine

section
variable {s t u : State}

/-! ## The moves -/

/-- The block is the same in both states: at most the source, the bus, the draws, the host and the inputs differ. -/
def SameBlock (s t : State) : Prop :=
  t = { s with src := t.src, readData := t.readData, draws := t.draws, host := t.host, events := t.events }

theorem Quiet.sameBlock (q : Quiet (popped s) t) : SameBlock s t := by
  unfold SameBlock
  rw [q.same]
  rfl

/-- A completion, a reset, a write of a register, or a move that leaves the block as it is. -/
theorem step_moves (h : step s = .next t) :
    (nextMove s = .complete ∧
      ((∃ i, decode s.latch.cmd = .ok i ∧ exec i (popped s) = .next t) ∨
       (∃ r, decode s.latch.cmd = .error r ∧ t = completeIllegal (popped s)))) ∨
    (nextMove s = .reset ∧ t = applyReset (popped s)) ∨
    (∃ r v u, nextMove s = .write r v ∧ SameBlock s u ∧ t = writeReg r v u) ∨
    (nextMove s = .other ∧ SameBlock s t) := by
  obtain ⟨hm, -, hc⟩ | hr | ⟨r, v, u, hm, q, rfl⟩ | ⟨hm, q⟩ | ⟨hm, a, b, -, rfl⟩ := step_cases h
  · exact .inl ⟨hm, hc⟩
  · exact .inr (.inl hr)
  · exact .inr (.inr (.inl ⟨r, v, u, hm, q.sameBlock, rfl⟩))
  · exact .inr (.inr (.inr ⟨hm, q.sameBlock⟩))
  · exact .inr (.inr (.inr ⟨hm, rfl⟩))

/-! ## DONE (R36) -/

/-- An acceptance clears DONE, a dropped CMD write keeps it. -/
theorem writeCmd_done (v : Word) (s : State) : (writeCmd v s).done = (s.busy && s.done) := by
  cases hb : s.busy with
  | true => rw [writeCmd_inFlight hb, Bool.true_and]
  | false => rw [writeCmd_idle hb, Bool.false_and, accept_done]

end

/-- Settles O48: a completion sets DONE, a reset clears it, and of the host writes only the one to CMD reaches it. -/
theorem doneChangesOnlyAsTheRuleSays : Obligations.DoneChangesOnlyAsTheRuleSays := by
  intro s t h
  obtain ⟨hm, -, hd, -⟩ | ⟨hm, -, hd, -⟩ | ⟨r, v, u, hm, ⟨hb, hd, -⟩, rfl⟩ | ⟨hm, -, hd, -⟩ := step_flags h <;> rw [hm]
  · exact hd
  · exact hd
  · cases r with
    | cmd => rw [writeReg, writeCmd_done, hb, hd]
    | _ => exact hd
  · exact hd

section
variable {s t u : State}

/-! ## The host registers and L (R34, R40 to R42, R60) -/

/-- The registers only the host writes, and L. -/
structure SameHostSide (s t : State) : Prop where
  srcEn : t.srcEn = s.srcEn
  addr : t.addr = s.addr
  srcLen : t.srcLen = s.srcLen
  cmd : t.cmd = s.cmd
  latch : t.latch = s.latch

theorem SameBlock.hostSide (b : SameBlock s t) : SameHostSide s t := by
  rw [b]
  exact ⟨rfl, rfl, rfl, rfl, rfl⟩

theorem SameBlock.busy (b : SameBlock s t) : t.busy = s.busy := by rw [b]

theorem exec_hostSide {i : Instr} (h : exec i (popped s) = .next t) : SameHostSide s t := by
  obtain ⟨hen, -, hcmd, haddr, hlen, hlatch, -⟩ := exec_frame h
  exact ⟨hen, haddr, hlen, hcmd, hlatch⟩

end

/-- Settles O50: a completion keeps them, a reset has its values, and each host write reaches its own register; an acceptance
latches the operands as they stand. -/
theorem hostRegistersChangeOnlyByHostWrites : Obligations.HostRegistersChangeOnlyByHostWrites := by
  intro s t h
  obtain ⟨hm, ⟨i, -, he⟩ | ⟨_, -, rfl⟩⟩ | ⟨hm, rfl⟩ | ⟨r, v, u, hm, b, rfl⟩ | ⟨hm, b⟩ := step_moves h <;> rw [hm]
  · obtain ⟨hen, haddr, hlen, hcmd, hlatch⟩ := exec_hostSide he
    exact ⟨hen, haddr, hlen, hcmd, hlatch⟩
  · exact ⟨rfl, rfl, rfl, rfl, rfl⟩
  · exact ⟨rfl, rfl, rfl, rfl, rfl⟩
  · obtain ⟨hen, haddr, hlen, hcmd, hlatch⟩ := b.hostSide
    cases r with
    | ctrl => exact ⟨getLsbD_zero v, haddr, hlen, hcmd, hlatch⟩
    | addr => exact ⟨hen, rfl, hlen, hcmd, hlatch⟩
    | srcLen => exact ⟨hen, haddr, rfl, hcmd, hlatch⟩
    | cmd =>
      have hbusy := b.busy
      cases hb : s.busy with
      | true =>
        rw [writeReg, writeCmd_inFlight (hbusy.trans hb)]
        exact ⟨hen, haddr, hlen, hcmd, hlatch⟩
      | false =>
        rw [writeReg, writeCmd_idle (hbusy.trans hb), accept_latch, hen, haddr, hlen]
        exact ⟨hen, haddr, hlen, rfl, rfl⟩
    | _ => exact ⟨hen, haddr, hlen, hcmd, hlatch⟩
  · obtain ⟨hen, haddr, hlen, hcmd, hlatch⟩ := b.hostSide
    exact ⟨hen, haddr, hlen, hcmd, hlatch⟩

section
variable {s t u : State}

/-! ## The results (R58) -/

/-- The results: the palette, the tile and the image, each with its registers. -/
def resultsOf (s : State) :
    (Vector Rgb 16 × BitVec 5 × Word) × Vector (Vector Nibble 8) 8 ×
      (List Rgb × BitVec 2 × BitVec 8 × BitVec 8 × Word × BitVec 16 × BitVec 16) :=
  (paletteOf s, s.tidx, imageOf s)

theorem SameBlock.results (b : SameBlock s t) : resultsOf t = resultsOf s := by
  rw [b]
  rfl

/-- No host write reaches a result (20_memory.md R93). -/
theorem writeReg_keeps_results (r : Reg) (v : Word) (s : State) : resultsOf (writeReg r v s) = resultsOf s := by
  obtain ⟨-, h⟩ | ⟨-, h⟩ | ⟨-, -, h⟩ | ⟨-, -, h⟩ | ⟨-, h⟩ | ⟨-, h⟩ | ⟨-, h⟩ := writeReg_cases r v s <;> rw [h] <;> rfl

end

/-- Settles O51: a move that is no completion and no reset writes at most a host register. -/
theorem resultsChangeOnlyInCompletionOrReset : Obligations.ResultsChangeOnlyInCompletionOrReset := by
  intro s t h hcomplete hreset
  have hres : resultsOf t = resultsOf s := by
    obtain ⟨hm, -⟩ | ⟨hm, -⟩ | ⟨r, v, u, -, b, rfl⟩ | ⟨-, b⟩ := step_moves h
    · exact absurd hm hcomplete
    · exact absurd hm hreset
    · exact (writeReg_keeps_results r v u).trans b.results
    · exact b.results
  obtain ⟨hpalette, htidx, himage⟩ : paletteOf t = paletteOf s ∧ t.tidx = s.tidx ∧ imageOf t = imageOf s := by
    simpa [resultsOf] using hres
  obtain ⟨hpal, hcount, hoff⟩ := paletteOf_eq_iff.1 hpalette
  exact ⟨hpal, hcount, hoff, htidx, imageOf_eq_iff.1 himage⟩

section
variable {s t u : State}

/-! ## The source and the capacity (R82, R12) -/

/-- No host write reaches the byte source or the capacity. -/
theorem writeReg_keeps_source (r : Reg) (v : Word) (s : State) :
    (writeReg r v s).fbMaxPixels = s.fbMaxPixels ∧ (writeReg r v s).src = s.src := by
  obtain ⟨-, h⟩ | ⟨-, h⟩ | ⟨-, -, h⟩ | ⟨-, -, h⟩ | ⟨-, h⟩ | ⟨-, h⟩ | ⟨-, h⟩ := writeReg_cases r v s <;> rw [h] <;>
    exact ⟨rfl, rfl⟩

theorem Quiet.source (q : Quiet (popped s) t) : t.fbMaxPixels = s.fbMaxPixels ∧ t.src = s.src := by
  rw [q.same]
  exact ⟨rfl, rfl⟩

end

/-- Settles O53: of a step's outcomes only the host's change of a byte writes the source, and none writes the capacity. -/
theorem sourceAndCapacityAreTheHosts : Obligations.SourceAndCapacityAreTheHosts := by
  intro s t h
  obtain ⟨-, -, ⟨i, -, he⟩ | ⟨_, -, rfl⟩⟩ | ⟨-, rfl⟩ | ⟨r, v, u, -, q, rfl⟩ | ⟨-, q⟩ | ⟨-, a, b, ⟨rest, he⟩, rfl⟩ := step_cases h
  · obtain ⟨-, -, -, -, -, -, hcap, hsrc, -⟩ := exec_frame he
    exact ⟨hcap, fun _ => hsrc⟩
  · exact ⟨rfl, fun _ => rfl⟩
  · exact ⟨rfl, fun _ => rfl⟩
  · obtain ⟨hcap, hsrc⟩ := writeReg_keeps_source r v u
    exact ⟨hcap.trans q.source.1, fun _ => hsrc.trans q.source.2⟩
  · exact ⟨q.source.1, fun _ => q.source.2⟩
  · exact ⟨rfl, fun hno => absurd he (hno a b rest)⟩

section
variable {s t u : State}

/-! ## ERR and ERRINFO (R38, R43, R256) -/

theorem SameBlock.errors (b : SameBlock s t) : t.err = s.err ∧ t.errInfo = s.errInfo := by
  rw [b]
  exact ⟨rfl, rfl⟩

/-- A command's outcome does not depend on the inputs to come. -/
theorem exec_popped_outcome {i : Instr} (h : exec i (popped s) = .next t) :
    ∃ u, exec i s = .next u ∧ t.err = u.err ∧ t.errInfo = u.errInfo := by
  obtain ⟨a, b, ha, hb, hend⟩ := exec_sameEnd (i := i) (s := s) (t := popped s) rfl rfl fun _ _ _ => rfl
  cases h.symm.trans hb
  refine ⟨a, ha, ?_⟩
  obtain ⟨e, n, q, r, rfl, rfl⟩ | ⟨rfl, rfl⟩ := hend <;> exact ⟨rfl, rfl⟩

/-- An acceptance clears ERR and ERRINFO, a dropped CMD write keeps them. -/
theorem writeCmd_errors (v : Word) (s : State) :
    (writeCmd v s).err = (if s.busy then s.err else 0#4) ∧ (writeCmd v s).errInfo = if s.busy then s.errInfo else 0#32 := by
  cases hb : s.busy with
  | true => rw [writeCmd_inFlight hb]; exact ⟨rfl, rfl⟩
  | false => rw [writeCmd_idle hb]; exact ⟨rfl, rfl⟩

/-- ERR is bits 11:8 of STATUS. -/
theorem regValue_status_err (s : State) : (regValue s .status).toNat / 256 % 16 = s.err.toNat := by
  have := s.err.isLt
  have := s.ovr.toNat_lt
  have := s.done.toNat_lt
  have := s.busy.toNat_lt
  rw [regValue, statusWord_toNat]
  omega

end

/-- Settles O60: a completion writes its own outcome, a reset and an acceptance clear the record, and no other move reaches it. -/
theorem errorRecordChangesOnlyAsTheRuleSays : Obligations.ErrorRecordChangesOnlyAsTheRuleSays := by
  refine ⟨fun s => ⟨regValue_status_err s, rfl, fun _ => rfl⟩, rfl, rfl, fun s t h => ?_⟩
  obtain ⟨hm, hc⟩ | ⟨hm, rfl⟩ | ⟨r, v, u, hm, b, rfl⟩ | ⟨hm, b⟩ := step_moves h <;> rw [hm]
  · refine ⟨fun _ => ?_, fun hne => absurd rfl hne⟩
    obtain ⟨i, hd, he⟩ | ⟨r, hd, rfl⟩ := hc
    · obtain ⟨u, hu, herr, hinfo⟩ := exec_popped_outcome he
      exact .inr ⟨i, u, hd, hu, herr, hinfo⟩
    · exact .inl ⟨r, hd, rfl, rfl⟩
  · exact ⟨nofun, fun _ => ⟨rfl, rfl⟩⟩
  · refine ⟨nofun, fun _ => ?_⟩
    obtain ⟨herr, hinfo⟩ := b.errors
    cases r with
    | cmd => rw [writeReg, ← b.busy, ← herr, ← hinfo]; exact writeCmd_errors v u
    | _ => exact ⟨herr, hinfo⟩
  · exact ⟨nofun, fun _ => b.errors⟩

section
variable {s t u : State}

/-! ## A BUSY engine completes (spec/70_reset_and_hazards.md R294) -/

theorem Quiet.events (q : Quiet (popped s) t) : t.events = s.events.tail := by
  rw [q.same]
  rfl

theorem writeReg_keeps_events (r : Reg) (v : Word) (s : State) : (writeReg r v s).events = s.events := by
  obtain ⟨-, h⟩ | ⟨-, h⟩ | ⟨-, -, h⟩ | ⟨-, -, h⟩ | ⟨-, h⟩ | ⟨-, h⟩ | ⟨-, h⟩ := writeReg_cases r v s <;> rw [h] <;> rfl

/-- A step takes the next input, and adds none. -/
theorem step_events (h : step s = .next t) : t.events = s.events.tail := by
  obtain ⟨-, -, ⟨i, -, he⟩ | ⟨_, -, rfl⟩⟩ | ⟨-, rfl⟩ | ⟨r, v, u, -, q, rfl⟩ | ⟨-, q⟩ | ⟨-, a, b, -, rfl⟩ := step_cases h
  · obtain ⟨-, -, -, -, -, -, -, -, -, -, -, hev⟩ := exec_frame he
    exact hev
  · rfl
  · rfl
  · exact (writeReg_keeps_events r v u).trans q.events
  · exact q.events
  · rfl

/-- From a BUSY state a step that is no reset ends the command, or it is no completion and leaves the engine BUSY. -/
theorem step_busy (h : step s = .next t) (hb : s.busy = true) (hreset : nextMove s ≠ .reset) :
    (t.busy = false ∧ t.done = true) ∨ (nextMove s ≠ .complete ∧ t.busy = true) := by
  obtain ⟨-, hb', hd, -⟩ | ⟨hm, -⟩ | ⟨r, v, u, hm, ⟨hu, -⟩, rfl⟩ | ⟨hm, ht, -⟩ := step_flags h
  · exact .inl ⟨hb', hd⟩
  · exact absurd hm hreset
  · have hu : u.busy = true := hu.trans hb
    refine .inr ⟨by rw [hm]; nofun, ?_⟩
    cases r with
    | cmd => exact writeCmd_busy v u
    | _ => exact hu
  · exact .inr ⟨by rw [hm]; nofun, ht.trans hb⟩

/-- Without a reset among the inputs the next move is none. -/
theorem nextMove_ne_reset (h : ∀ e ∈ s.events, e ≠ .reset) : nextMove s ≠ .reset := by
  have hmove : ∀ u : State, hostMove u ≠ .reset := fun u => by unfold hostMove; split <;> nofun
  have hraw : ∀ off v, rawMove s off v ≠ .reset := fun off v => by unfold rawMove; split <;> nofun
  unfold nextMove
  split
  · split
    · nofun
    · exact hmove s
  · exact hraw _ _
  · split <;> nofun
  · next he => exact absurd rfl (h .reset (by rw [he]; exact List.mem_cons_self ..))
  · exact hmove s
  · nofun

end

/-- Settles O56, by induction on the inputs to come: each step completes the command or takes an input, and without inputs the
engine moves. -/
theorem acceptedCommandsComplete : Obligations.AcceptedCommandsComplete := by
  intro s
  generalize hlen : s.events.length = n
  intro hb hreset hruns
  induction n generalizing s with
  | zero =>
    obtain ⟨t, ht⟩ := hruns 1 (Nat.le_refl 1)
    obtain ⟨u, hu, -⟩ := reaches_succ.1 ht
    obtain hfin | ⟨hm, -⟩ := step_busy hu hb (nextMove_ne_reset hreset)
    · exact ⟨1, u, Nat.le_refl 1, reaches_succ.2 ⟨u, hu, reaches_zero.2 rfl⟩, hfin⟩
    · exact absurd (by simp [nextMove, List.length_eq_zero_iff.1 hlen, hb]) hm
  | succ n ih =>
    obtain ⟨t, ht⟩ := hruns 1 (by omega)
    obtain ⟨u, hu, -⟩ := reaches_succ.1 ht
    obtain hfin | ⟨-, hbusy⟩ := step_busy hu hb (nextMove_ne_reset hreset)
    · exact ⟨1, u, by omega, reaches_succ.2 ⟨u, hu, reaches_zero.2 rfl⟩, hfin⟩
    · have hev := step_events hu
      obtain ⟨m, v, hm, hv, hfin⟩ := ih u (by rw [hev, List.length_tail, hlen]; rfl) hbusy
        (fun e he => hreset e (List.mem_of_mem_tail (hev ▸ he))) fun k hk => by
          obtain ⟨v, hv⟩ := hruns (k + 1) (by omega)
          obtain ⟨u', hu', hv⟩ := reaches_succ.1 hv
          cases hu.symm.trans hu'
          exact ⟨v, hv⟩
      exact ⟨m + 1, v, by omega, reaches_succ.2 ⟨u, hu, hv⟩, hfin⟩

/-! ## The source under a command in flight (spec/70_reset_and_hazards.md R291) -/

section
variable {s : State} {a : Word} {b : Byte} {rest : List Event}

theorem stableBytes_of_need {i : Instr} {need : Nat} (hb : s.busy = true) (hd : decode s.latch.cmd = .ok i)
    (hn : sourceNeed i = some need) : stableBytes s = need := by
  simp [stableBytes, hb, hd, hn]

/-- An engine that is idle, or whose word reads nothing, keeps no byte stable. -/
theorem stableBytes_eq_zero
    (h : s.busy = false ∨ (∃ r, decode s.latch.cmd = .error r) ∨ ∃ i, decode s.latch.cmd = .ok i ∧ sourceNeed i = none) :
    stableBytes s = 0 := by
  obtain hb | ⟨r, hd⟩ | ⟨i, hd, hn⟩ := h
  · simp [stableBytes, hb]
  · simp [stableBytes, hd]
  · simp [stableBytes, hd, hn]

theorem inStableWindow_iff {c : Nat} :
    inStableWindow s c = true ↔ s.latch.addr.toNat ≤ c ∧ c < s.latch.addr.toNat + stableBytes s := decide_eq_true_iff

theorem step_source_refused (he : s.events = .source a b :: rest) (hw : inStableWindow s a.toNat = true)
    (hne : srcRead s a.toNat ≠ b) : step s = .refused (.sourceChangedWhileRead a) := by
  rw [step_event he]
  exact if_pos (Bool.and_eq_true_iff.2 ⟨hw, decide_eq_true hne⟩)

/-- A change outside the window, or of nothing, is made. -/
theorem step_source_made (he : s.events = .source a b :: rest) (h : inStableWindow s a.toNat = false ∨ srcRead s a.toNat = b)
    (hwf : Memory.wf s.src = true) : ∃ t, step s = .next t ∧ sourceChanged s rest a b t := by
  refine ⟨{ s with events := rest, src := Memory.write s.src a.toNat b }, ?_, fun _ => Memory.read_write hwf, rfl⟩
  rw [step_event he]
  refine if_neg fun hw => ?_
  obtain ⟨hwin, hne⟩ := Bool.and_eq_true_iff.1 hw
  obtain h | h := h
  · exact Bool.false_ne_true (h.symm.trans hwin)
  · exact of_decide_eq_true hne h

end

/-- Settles O54: the window is L.ADDR on for the bytes the command needs, and empty when nothing reads. -/
theorem sourceIsStableWhileACommandReadsIt : Obligations.SourceIsStableWhileACommandReadsIt := by
  intro s a b rest he
  refine ⟨fun i need hb hd hn => ?_, fun hidle hwf => step_source_made he (.inl ?_) hwf⟩
  · have hneed := stableBytes_of_need hb hd hn
    refine ⟨fun hwin hne => step_source_refused he (inStableWindow_iff.2 (hneed ▸ hwin)) hne, fun hout hwf =>
      step_source_made he (hout.imp_left fun hwin => ?_) hwf⟩
    rw [← hneed, ← inStableWindow_iff] at hwin
    exact Bool.eq_false_iff.2 hwin
  · rw [Bool.eq_false_iff, ne_eq, inStableWindow_iff, stableBytes_eq_zero hidle]
    omega

end Sys2Proof.Machine
end

section
/-! PROOFS. The accesses of a host program (spec/30_encoding.md R121) and the protection of a SEARCH (spec/44_host_sprite_reader.md
R237). -/

namespace Sys2Proof.Machine

/-! ## WR and RD (R121) -/

section
variable {s : State} {r : Reg} {x : HostVar} {v : Nat} {rest : List Event} {op : HostInstr}

theorem step_host (he : s.events = .host :: rest) (hop : s.host.program[s.host.pc]? = some op) :
    step s = hostAction op { s with events := rest } := by
  rw [step_event he, perform, hostTurn, hop]

theorem hostWord_wide (h : 2 ^ 32 ≤ v) : hostWord v s = Config.wideWrite s.draws := if_neg (Nat.not_lt_of_le h)

theorem wordFormed_wide (h : 2 ^ 32 ≤ v) : wordFormed v s = { s with draws := s.draws + 1 } := if_neg (Nat.not_lt_of_le h)

/-- A source length that does not fit cannot be described (R230). -/
theorem hostWrite_sourceTooLong (h : 2 ^ 32 ≤ v) : hostWrite .srcLen v s = .refused (.sourceTooLong v) := if_pos ⟨rfl, h⟩

/-- A `WR` of a value that fits writes it. -/
theorem hostWrite_fits (hc : s.fbMaxPixels ≤ 65536) (hr : regExists s r = true) (h : v < 2 ^ 32) :
    hostWrite r v s = .next (writeReg r (BitVec.ofNat 32 v) (s.withHost s.host.advance)) := by
  rw [hostWrite, if_neg (by omega), if_pos hr, hostWord_fits s h, wordFormed_fits s h]
  exact busWrite_offset (s := s.withHost s.host.advance) hc (regExists_iff.1 hr) _

/-- A `WR` of a wider value to another register writes a draw. -/
theorem hostWrite_wide (hc : s.fbMaxPixels ≤ 65536) (hr : regExists s r = true) (hsrc : r ≠ .srcLen) (h : 2 ^ 32 ≤ v) :
    hostWrite r v s = .next (writeReg r (Config.wideWrite s.draws)
      ({ s with draws := s.draws + 1 }.withHost s.host.advance)) := by
  rw [hostWrite, if_neg (fun hs => hsrc hs.1), if_pos hr, hostWord_wide h, wordFormed_wide h]
  exact busWrite_offset (s := { s with draws := s.draws + 1 }.withHost s.host.advance) hc (regExists_iff.1 hr) _

/-- `RD` of an existing register is its read, and the name takes what the bus then holds. -/
theorem hostRead_eq (hc : s.fbMaxPixels ≤ 65536) (hr : regExists s r = true) :
    hostRead r x s = .next (takeReadData x (readReg r (s.withHost s.host.advance))) := by
  rw [hostRead, if_pos hr, busRead_offset (s := s.withHost s.host.advance) hc (regExists_iff.1 hr)]

/-- After an `RD` that answered `d` the name holds `d`, every other name what it held. -/
theorem takeReadData_read (hv : cellsWf 0 s.host.vars = true) {d : Word} {n : Nat} {t : State}
    (ht : t = takeReadData x { s with events := rest, readData := d, draws := n, host := s.host.advance }) :
    t.readData = d ∧ t.host.get x = d.toNat ∧ (∀ y, y ≠ x → t.host.get y = s.host.get y) ∧ t.host.pc = s.host.pc + 1 ∧
      t = { s with events := rest, readData := t.readData, draws := n,
                   host := { s.host with pc := t.host.pc, vars := t.host.vars } } := by
  subst ht
  have hget (y : HostVar) : (s.host.advance.set x d.toNat).get y = if y = x then d.toNat else s.host.get y :=
    get_set (c := s.host.advance) hv
  exact ⟨rfl, (hget x).trans (if_pos rfl), fun y hy => (hget y).trans (if_neg hy), rfl, rfl⟩

end

/-- Settles O57: the host's turn on a `WR` or an `RD` is the access at the register's offset, after the host has moved on. -/
theorem hostProgramAccessesAreMmioAccesses : Obligations.HostProgramAccessesAreMmioAccesses := by
  intro s r rest hc hr he
  refine ⟨fun e hop hfit => (step_host he hop).trans (hostWrite_fits (s := { s with events := rest }) hc hr hfit),
    fun e hop hwide => ⟨fun hsrc => ?_, fun hsrc =>
      (step_host he hop).trans (hostWrite_wide (s := { s with events := rest }) hc hr hsrc hwide)⟩,
    fun x hop hb hres hv => ?_, fun x hop hdef hv => ?_⟩
  · subst hsrc
    exact (step_host he hop).trans (hostWrite_sourceTooLong hwide)
  · refine ⟨_, (step_host he hop).trans (hostRead_eq hc hr), takeReadData_read hv ?_⟩
    exact congrArg (takeReadData x) (readReg_draw (s := { s with events := rest }.withHost s.host.advance) hb hres)
  · refine ⟨_, (step_host he hop).trans (hostRead_eq hc hr), takeReadData_read (n := s.draws) hv ?_⟩
    have hval : regValue ({ s with events := rest }.withHost s.host.advance) r = regValue s r := by cases r <;> rfl
    rw [← hval]
    exact congrArg (takeReadData x) (readReg_value (s := { s with events := rest }.withHost s.host.advance) hdef)

/-! ## Inside a SEARCH (R237, log 15) -/

section
variable {c d : HostCtx} {o : Nat} {w h : BitVec 8} {p count n : Nat} {op : HostInstr} {k : List HostInstr}

/-- An access found by the bounded search is one that comes. -/
theorem accessComes_of_accessWithin (ha : c.accessWithin n = true) : c.accessComes := by
  obtain ⟨m, -, d, hl, hd⟩ := accessWithin_iff.1 ha
  exact ⟨m, d, hl, hd⟩

/-- A SEARCH's program is longer than its longest stretch without an access. -/
theorem length_searchProgram_ge : 11 ≤ (searchProgram o w h p count).length := by
  rw [searchProgram_eq, searchPalette, runProgram, waitProgram, List.length_append]
  simp only [List.length_append, List.length_cons, List.length_nil, SearchCode.init, SearchCode.next]
  omega

/-- The bound of `inSearch` is no bound for a SEARCH. -/
theorem inSearch_iff (hp : c.program = searchProgram o w h p count) :
    c.inSearch = true ↔ c.searching = true ∧ 0 < c.pc ∧ c.accessComes := by
  have hwithin : c.accessWithin c.program.length = true ↔ c.accessComes := by
    refine ⟨accessComes_of_accessWithin, fun ha => accessWithin_iff.2 ?_⟩
    obtain ⟨m, hm, d, hd⟩ := accessWithin_iff.1 ((accessComes_iff hp).1 ha)
    exact ⟨m, by rw [hp]; exact Nat.lt_of_lt_of_le hm length_searchProgram_ge, d, hd⟩
  simp only [HostCtx.inSearch, Bool.and_eq_true, decide_eq_true_eq, hwithin, and_assoc]

/-- A SEARCH begins with `WR ADDR`, so at an FB read it is past its first action. -/
theorem inSearch_at_fb_read {j : Nat} {x : HostVar} (hp : c.program = searchProgram o w h p count) (hs : c.searching = true)
    (hop : c.program[c.pc]? = some (.rd (.fb j) x)) : c.inSearch = true := by
  refine (inSearch_iff hp).2 ⟨hs, Nat.pos_of_ne_zero fun h0 => ?_, 0, c, rfl, .fb j, .inr ⟨x, hop⟩⟩
  rw [h0, hp] at hop
  cases hop

theorem jumpTo_of_labelIndex {l : HostLabel} (hl : labelIndex l c.program = some n) : c.jumpTo l = .ok { c with pc := n } := by
  rw [HostCtx.jumpTo, hl]

theorem proceed_ifGoto_of_true {b : HostCond} {l : HostLabel} (hb : b.eval c = true) (hl : labelIndex l c.program = some n) :
    c.proceed (.ifGoto b l) = .ok { c with pc := n } := by
  rw [HostCtx.proceed, if_pos hb, jumpTo_of_labelIndex hl]

/-- The host's own action before an access moves the search for it on. -/
theorem accessWithin_own (hk : c.program.drop c.pc = op :: k) (hna : op.isAccess = false) (he : c.proceed op = .ok d) :
    c.accessWithin (n + 1) = d.accessWithin n := by
  simp only [HostCtx.accessWithin, getElem_of_drop hk, hna, he, Bool.false_or]

theorem accessWithin_ended (hk : c.program.drop c.pc = []) : c.accessWithin n = false := by
  cases n with
  | zero => rfl
  | succ n => simp only [HostCtx.accessWithin, List.getElem?_eq_none (List.drop_eq_nil_iff.1 hk)]

/-- Where a value that stands once in a list stands, the rest of the list follows it. -/
theorem drop_of_getElem_unique {α : Type} {pre suf : List α} {a : α} (hpre : a ∉ pre) (hsuf : a ∉ suf)
    (hn : (pre ++ a :: suf)[n]? = some a) : (pre ++ a :: suf).drop n = a :: suf := by
  obtain hlt | rfl | hgt := Nat.lt_trichotomy n pre.length
  · rw [List.getElem?_append_left hlt] at hn
    exact absurd (List.mem_of_getElem? hn) hpre
  · simp
  · rw [List.getElem?_append_right (Nat.le_of_lt hgt), ← Nat.succ_pred_eq_of_pos (Nat.sub_pos_of_lt hgt),
      List.getElem?_cons_succ] at hn
    exact absurd (List.mem_of_getElem? hn) hsuf

/-- A SEARCH appends a record at one place of its program. -/
theorem drop_at_appendRecord (hop : (searchProgram o w h p count)[n]? = some .appendRecord) :
    (searchProgram o w h p count).drop n = .appendRecord :: SearchCode.advance := by
  have hprog : searchProgram o w h p count =
      (beforeNext w h p ++ searchSprite o w h count ++ .label lblHold :: runProgram (.phold w h) lblWaitPhold
        ++ .label lblKeep :: readRecord (gridPixels w h)) ++ .appendRecord :: SearchCode.advance := by
    simp [searchProgram_eq, SearchCode.init, SearchCode.next, SearchCode.judge, SearchCode.hold, SearchCode.keep, searchSprite]
  rw [hprog] at hop ⊢
  refine drop_of_getElem_unique ?_ (by simp [SearchCode.advance, SearchCode.empty, SearchCode.done]) hop
  simp [searchPalette, searchSprite, runProgram, waitProgram, readRecord]

/-- The context after a sprite's record, at the jump to the next sprite. -/
def HostCtx.recorded (c : HostCtx) : HostCtx :=
  (({ c.advance with result := c.result ++ [c.record] }.advance).set HostVar.i (c.get HostVar.i + 1)).advance

/-- After the record of its last sprite a SEARCH goes from `next` to `done` without an access. -/
theorem accessWithin_last_record (hp : c.program = searchProgram o w h p count)
    (hop : c.program[c.pc]? = some .appendRecord) (hv : cellsWf 0 c.vars = true) (hi : c.get HostVar.i + 1 = count) :
    c.accessWithin 11 = false := by
  obtain ⟨a, hla, hda⟩ := lands_next (o := o) (w := w) (h := h) (p := p) (count := count)
  obtain ⟨b, hlb, hdb⟩ := lands_done (o := o) (w := w) (h := h) (p := p) (count := count)
  rw [← hp] at hla hda hlb hdb
  have hk : c.program.drop c.pc = .appendRecord :: SearchCode.advance := by
    rw [hp] at hop ⊢
    exact drop_at_appendRecord hop
  have hcount : c.recorded.get HostVar.i = count := (get_set hv).trans ((if_pos rfl).trans hi)
  have k1 := drop_of_drop hk
  have k2 := drop_of_drop k1
  have k3 := drop_of_drop k2
  have hjump : { c.recorded with pc := a }.advance.proceed (.ifGoto (.eq (.var HostVar.i) (.lit count)) lblDone) =
      .ok { c.recorded with pc := b } := proceed_ifGoto_of_true (decide_eq_true hcount) hlb
  calc c.accessWithin 11
    _ = ({ c.advance with result := c.result ++ [c.record] } : HostCtx).accessWithin 10 := accessWithin_own hk rfl rfl
    _ = ({ c.advance with result := c.result ++ [c.record] } : HostCtx).advance.accessWithin 9 := accessWithin_own k1 rfl rfl
    _ = c.recorded.accessWithin 8 := accessWithin_own k2 rfl rfl
    _ = ({ c.recorded with pc := a } : HostCtx).accessWithin 7 := accessWithin_own k3 rfl (jumpTo_of_labelIndex hla)
    _ = ({ c.recorded with pc := a } : HostCtx).advance.accessWithin 6 := accessWithin_own hda rfl rfl
    _ = ({ c.recorded with pc := b } : HostCtx).accessWithin 5 := accessWithin_own (drop_of_drop hda) rfl hjump
    _ = ({ c.recorded with pc := b } : HostCtx).advance.accessWithin 4 := accessWithin_own hdb rfl rfl
    _ = false := accessWithin_ended (drop_of_drop hdb)

/-- The protection ends with the record of the last sprite (log 15). -/
theorem not_inSearch_at_last_record (hp : c.program = searchProgram o w h p count)
    (hop : c.program[c.pc]? = some .appendRecord) (hv : cellsWf 0 c.vars = true) (hi : c.get HostVar.i + 1 = count) :
    c.inSearch = false := by
  refine Bool.eq_false_iff.2 fun hs => ?_
  obtain ⟨-, -, hcomes⟩ := (inSearch_iff hp).1 hs
  rw [accessComes_iff hp, accessWithin_last_record hp hop hv hi] at hcomes
  exact Bool.false_ne_true hcomes

/-- A context that is no SEARCH, has not begun, or has no access to come, protects nothing. -/
theorem not_inSearch (hfree : c.searching = false ∨ c.pc = 0 ∨ ¬ c.accessComes) : c.inSearch = false := by
  refine Bool.eq_false_iff.2 fun hs => ?_
  simp only [HostCtx.inSearch, Bool.and_eq_true, decide_eq_true_eq] at hs
  obtain ⟨⟨hsearching, hpc⟩, hwithin⟩ := hs
  obtain h | h | h := hfree
  · rw [hsearching] at h
    cases h
  · omega
  · exact h (accessComes_of_accessWithin hwithin)

end

section
variable {s : State} {r : Reg} {rest : List Event}

/-- An access of any width to a protected register inside a SEARCH is refused. -/
theorem step_refused_of_protected (hc : s.fbMaxPixels ≤ 65536) (hr : regExists s r = true) (hs : s.host.inSearch = true)
    (hp : r.isProtected = true) {width : Nat} {v : Word}
    (he : s.events = .read (BitVec.ofNat 20 r.offset) width :: rest ∨
      s.events = .write (BitVec.ofNat 20 r.offset) width v :: rest) : step s = .refused .searchInterleaved := by
  have hi : interleaves { s with events := rest } r.offset = true :=
    (interleaves_offset hr).trans (Bool.and_eq_true_iff.2 ⟨hs, hp⟩)
  have ho := toNat_offset (offset_lt_of_exists hc hr)
  obtain he | he := he <;> rw [step_event he, perform, ho]
  · exact if_pos hi
  · exact if_pos hi

end

/-- Settles O59: the protection is an access to come past the first action, and an access is refused exactly under it. -/
theorem searchIsNotInterleaved : Obligations.SearchIsNotInterleaved := by
  refine ⟨fun c o w h p count hp => ⟨inSearch_iff hp, fun k x hs hop => inSearch_at_fb_read hp hs hop,
    not_inSearch_at_last_record hp⟩, fun s r rest hc hr => ⟨?_, fun hfree => ?_⟩⟩
  · intro o w h p count width v hp hs hpc hcomes hreg he
    exact step_refused_of_protected hc hr ((inSearch_iff hp).2 ⟨hs, hpc, hcomes⟩) (isProtected_iff.2 hreg) he
  · have ho := offset_lt_of_exists hc hr
    have hnot := not_forbidden_of_not_inSearch (not_inSearch hfree) r
    exact ⟨step_read_reg ho hr hnot, fun v => step_write_reg ho hr hnot⟩

end Sys2Proof.Machine
end

section
/-! PROOFS. The issue of a SEARCH (spec/44_host_sprite_reader.md R232, R236) and what an issued one asks for, returns and reports when
nothing else moves (R233 to R235). -/

namespace Sys2Proof.Machine

/-! ## The issue (R236, log 23) -/

section
variable {s : State} {o w h p count : Nat} {rest : List Event}

theorem searchInRange_iff :
    searchInRange o w h p count = true ↔
      (1 ≤ w ∧ w ≤ 255 ∧ 1 ≤ h ∧ h ≤ 255) ∧ p ≤ 2 ^ 32 - 1 ∧ (count = 0 ∨ o + (count - 1) * 32 * w * h ≤ 2 ^ 32 - 1) := by
  have hcount : (1 ≤ count → o + (count - 1) * 32 * w * h ≤ 2 ^ 32 - 1) ↔
      (count = 0 ∨ o + (count - 1) * 32 * w * h ≤ 2 ^ 32 - 1) := by
    rw [Nat.one_le_iff_ne_zero, ← or_iff_not_imp_left]
  simp only [searchInRange, decide_eq_true_eq, hcount, and_assoc]

theorem step_search_running (he : s.events = .search o w h p count :: rest) (hrun : s.host.pc < s.host.program.length) :
    step s = .refused .searchInterleaved := by
  rw [step_event he]
  exact if_neg (by simpa [HostCtx.ended] using hrun)

theorem issueSearch_ended (hend : s.host.program.length ≤ s.host.pc) :
    issueSearch o w h p count s =
      if searchInRange o w h p count then
        .next (startProgram (searchProgram o (BitVec.ofNat 8 w) (BitVec.ofNat 8 h) p count) true s)
      else .refused .searchOutOfRange := if_pos (decide_eq_true hend)

theorem step_search_issued (he : s.events = .search o w h p count :: rest) (hend : s.host.program.length ≤ s.host.pc)
    (hin : searchInRange o w h p count = true) :
    step s = .next (startProgram (searchProgram o (BitVec.ofNat 8 w) (BitVec.ofNat 8 h) p count) true
      { s with events := rest }) := by
  rw [step_event he, perform, issueSearch_ended (s := { s with events := rest }) hend, if_pos hin]

theorem step_search_outOfRange (he : s.events = .search o w h p count :: rest) (hend : s.host.program.length ≤ s.host.pc)
    (hout : searchInRange o w h p count ≠ true) : step s = .refused .searchOutOfRange := by
  rw [step_event he, perform, issueSearch_ended (s := { s with events := rest }) hend, if_neg hout]

end

/-! ## The run (R233 to R235) -/

section
variable {s t : State} {o : Nat} {w h : BitVec 8} {p count i : Nat} {rs : List SpriteRecord} {ps : List HostReport}

/-- The run from `t` ends with these requests, this result and these reports. -/
def EndsWith (t : State) (qs : List SrcRequest) (rs : List SpriteRecord) (ps : List HostReport) : Prop :=
  ∃ u, Runs t u ∧ u.events = [] ∧ u.host.program.length ≤ u.host.pc ∧ u.busy = false ∧ u.requests = qs ∧
    u.host.result = rs ∧ u.host.reports = ps

theorem EndsWith.of_runs {u : State} {qs : List SrcRequest} (r : Runs t u) (e : EndsWith u qs rs ps) : EndsWith t qs rs ps := by
  obtain ⟨v, r', hv⟩ := e
  exact ⟨v, r.trans r', hv⟩

theorem filterMap_range_succ {α : Type} (f : Nat → Option α) (n : Nat) :
    (List.range (n + 1)).filterMap f = (List.range n).filterMap f ++ (f n).toList := by
  rw [List.range_succ, List.filterMap_append]
  cases hf : f n <;> simp [hf]

/-- Every sprite's offset fits 32 bits when the last one's does. -/
theorem sprite_offset_lt (hr : count = 0 ∨ o + (count - 1) * 32 * w.toNat * h.toNat ≤ 2 ^ 32 - 1) (hi : i < count) :
    o + i * gridBytes w h < 2 ^ 32 := by
  have hle : i * gridBytes w h ≤ (count - 1) * gridBytes w h := Nat.mul_le_mul_right _ (by omega)
  have heq : (count - 1) * gridBytes w h = (count - 1) * 32 * w.toNat * h.toNat := by
    simp only [gridBytes, Nat.mul_assoc]
  omega

/-- The loop, by induction on the sprites done: each round adds what its sprite adds. -/
theorem SearchAt.sprites (a : SearchAt s o w h p count (SearchCode.next o w h count) 0 0 [] [] t) (hw : w ≠ 0#8) (hh : h ≠ 0#8)
    (hen : s.srcEn = true) (hr : count = 0 ∨ o + (count - 1) * 32 * w.toNat * h.toNat ≤ 2 ^ 32 - 1) (hi : i ≤ count) :
    ∃ u, Runs t u ∧ SearchAt s o w h p count (SearchCode.next o w h count) i i
      ((List.range i).filterMap (spriteFound s o w h p)) ((List.range i).filterMap (spriteReported s o w h)) u := by
  have hgrid : gridWf w h := ⟨hw, hh⟩
  induction i with
  | zero => exact ⟨t, Runs.rfl' t, a⟩
  | succ i ih =>
    obtain ⟨u, r, au⟩ := ih (by omega)
    obtain ⟨v, r', av⟩ := au.sprite (decode_encode (decide_eq_true hgrid)) (decode_encode (decide_eq_true hgrid)) hen
      (Nat.ne_of_lt hi) (sprite_offset_lt hr hi)
    rw [filterMap_range_succ, filterMap_range_succ]
    exact ⟨v, r.trans r', av⟩

/-- When the count is reached the program jumps to `done`. -/
theorem SearchAt.finish (a : SearchAt s o w h p count (SearchCode.next o w h count) count count rs ps t) :
    EndsWith t (s.requests ++ ⟨BitVec.ofNat 32 p, 32⟩ ::
      if s.fbMaxPixels < gridPixels w h then []
      else (List.range count).map fun k => ⟨BitVec.ofNat 32 (o + k * gridBytes w h), gridBytes w h⟩) rs ps := by
  obtain ⟨t1, r1, -, a1⟩ := a.label
  obtain ⟨t2, r2, -, a2⟩ := a1.jump (decide_eq_true a1.index) lands_done
  obtain ⟨u, r3, hu, hhost, hend⟩ := runs_done a2.idle a2.next
  refine ⟨u, (r1.trans r2).runs.trans r3, ?_, hend, ?_, ?_, ?_, ?_⟩
  · rw [hu]; exact a2.idle.events
  · rw [hu]; exact a2.idle.busy
  · rw [hu]; exact a2.requests
  · rw [hhost]; exact a2.result
  · rw [hhost]; exact a2.reports

/-- What the palette load leaves: a SEARCH at its first test of the load's status. -/
structure PaletteTried (s : State) (o : Nat) (w h : BitVec 8) (p count : Nat) (t : State) : Prop where
  idle : Idle t
  status : t.host.get HostVar.s = (statusWord t).toNat
  vars : cellsWf 0 t.host.vars = true
  host : t.host = ⟨searchProgram o w h p count, t.host.pc, t.host.vars, [], [], true⟩
  src : t.src = s.src
  srcEn : t.srcEn = s.srcEn
  srcLen : t.srcLen = s.srcLen
  cap : t.fbMaxPixels = s.fbMaxPixels
  next : code t = .ifGoto (.eq statusErr (.lit 2)) lblEmpty :: .ifGoto (.eq statusErr (.lit 4)) lblEmpty ::
    SearchCode.init o w h count

theorem PaletteTried.program (a : PaletteTried s o w h p count t) : t.host.program = searchProgram o w h p count := by
  rw [a.host]

/-- A failed load goes to `empty`, by the first test or by the second. -/
theorem PaletteTried.fail (a : PaletteTried s o w h p count t) (he : t.err.toNat = 2 ∨ t.err.toNat = 4) :
    EndsWith t t.requests [] [.palette t.err.toNat] := by
  obtain ⟨n, hl, hdrop⟩ := lands_empty (o := o) (w := w) (h := h) (p := p) (count := count)
  have hlabel : labelIndex lblEmpty t.host.program = some n := by rw [a.program]; exact hl
  have hjump : Ran t (t.withHost { t.host with pc := n }) := by
    obtain h2 | h4 := he
    · exact ran_jump a.idle a.next (by rw [eval_errIs 2 a.status]; exact decide_eq_true h2) hlabel
    · have r := ran_skip a.idle a.next (by rw [eval_errIs 2 a.status, h4]; rfl)
      have hstatus : (t.withHost t.host.advance).host.get HostVar.s = (statusWord t).toNat := a.status
      exact r.trans (ran_jump (s := t.withHost t.host.advance) (r.idle a.idle) (code_step a.next rfl rfl)
        (by rw [eval_errIs 4 hstatus]; exact decide_eq_true h4) hlabel)
  have hcode : code (t.withHost { t.host with pc := n }) = SearchCode.empty := by
    change t.host.program.drop n = _
    rw [a.program]
    exact hdrop
  obtain ⟨u, r, hu, hres, hrep, hend⟩ := runs_empty (hjump.idle a.idle) hcode a.status
  refine ⟨u, hjump.runs.trans r, ?_, hend, ?_, ?_, hres, ?_⟩
  · rw [hu]; exact a.idle.events
  · rw [hu]; exact a.idle.busy
  · rw [hu]; rfl
  · rw [hrep]
    change t.host.reports ++ [.palette t.err.toNat] = _
    rw [a.host]
    rfl

/-- An action of the host's own that goes on with the next one. -/
theorem ran_own {op : HostInstr} {rest : List HostInstr} {c : HostCtx} (hi : Idle s) (hc : code s = op :: rest)
    (hna : op.isAccess = false) (he : s.host.proceed op = .ok c) (hnext : c.program = s.host.program ∧ c.pc = s.host.pc + 1) :
    ∃ u, Ran s u ∧ Idle u ∧ u.host = c ∧ code u = rest := by
  have r : Ran s (s.withHost c) := ran_host hi hc (by rw [hostAction_business hna, hostBusiness, he])
  exact ⟨_, r, r.idle hi, rfl, code_step (t := s.withHost c) hc hnext.1 hnext.2⟩

/-- The names and the result that the loop starts with. -/
def HostCtx.initialised (c : HostCtx) (bytes : Nat) : HostCtx :=
  { ((c.set HostVar.len bytes).advance.set HostVar.i 0).advance.advance with result := [] }

/-- A load that succeeded passes both tests, and the loop starts. -/
theorem PaletteTried.succeed (a : PaletteTried s o w h p count t) (he : t.err = 0#4)
    (hq : t.requests = s.requests ++ [⟨BitVec.ofNat 32 p, 32⟩]) (hcount : t.palCount = 16#5) (hoff : t.palOff = BitVec.ofNat 32 p)
    (hpal : ∀ j : Fin 16, t.pal[j] = col15 (srcRead16 s (p + 2 * j.val))) :
    ∃ u, Runs t u ∧ SearchAt s o w h p count (SearchCode.next o w h count) 0 0 [] [] u := by
  have hskip (n : Nat) (hn : n ≠ 0) {c : HostCtx} (hs : c.get HostVar.s = t.host.get HostVar.s) (l : HostLabel) :
      c.proceed (.ifGoto (.eq statusErr (.lit n)) l) = .ok c.advance := by
    rw [HostCtx.proceed, eval_errIs n (hs.trans a.status), he]
    exact if_neg (by simpa using hn.symm)
  obtain ⟨t1, r1, i1, h1, c1⟩ := ran_own a.idle a.next rfl (hskip 2 (by decide) rfl _) ⟨rfl, rfl⟩
  obtain ⟨t2, r2, i2, h2, c2⟩ := ran_own i1 c1 rfl (hskip 4 (by decide) (by rw [h1]; rfl) _) ⟨rfl, rfl⟩
  obtain ⟨t3, r3, i3, h3, c3⟩ := ran_own i2 c2 rfl rfl ⟨rfl, rfl⟩
  obtain ⟨t4, r4, i4, h4, c4⟩ := ran_own i3 c3 rfl rfl ⟨rfl, rfl⟩
  obtain ⟨u, r5, hu, h5, c5⟩ := ran_own i4 c4 rfl rfl ⟨rfl, rfl⟩
  have r := (((r1.trans r2).trans r3).trans r4).trans r5
  have hhost : u.host = t.host.advance.advance.initialised (gridBytes w h) := by
    rw [h5, h4, h3, h2, h1]
    rfl
  have hlen := varsWf_set (x := HostVar.len) (v := gridBytes w h) a.vars
  have hget (y : HostVar) : u.host.get y =
      if y = HostVar.i then 0 else if y = HostVar.len then gridBytes w h else t.host.get y := by
    rw [hhost]
    refine (get_set (c := t.host.set HostVar.len (gridBytes w h)) hlen).trans ?_
    rw [get_set a.vars]
  refine ⟨u, r.runs, hu, by rw [r.same]; exact a.src, by rw [r.same]; exact a.srcEn, by rw [r.same]; exact a.srcLen,
    by rw [r.same]; exact a.cap, by rw [r.same]; exact hcount, by rw [r.same]; exact hoff,
    fun j => by rw [r.same]; exact hpal j, by rw [hhost]; exact a.program, by rw [hhost]; exact varsWf_set hlen, c5,
    hget HostVar.i, hget HostVar.len, ?_, by rw [hhost]; rfl, ?_⟩
  · rw [r.same]
    change t.requests = _
    rw [hq]
    simp
  · rw [hhost]
    change t.host.reports = []
    rw [a.host]

/-- The palette load of a program that has just been started. -/
theorem runs_paletteTried (hi : Idle s) (hhost : s.host = ⟨searchProgram o w h p count, 0, [], [], [], true⟩) (hp : p ≤ 2 ^ 32 - 1) :
    ∃ t, Runs s t ∧ PaletteTried s o w h p count t ∧
      match searchPaletteError s p with
      | some e => t.err.toNat = e ∧ (e = 2 ∨ e = 4) ∧ t.requests = s.requests ++ (if s.srcEn then [⟨BitVec.ofNat 32 p, 32⟩] else [])
      | none => t.err = 0#4 ∧ t.requests = s.requests ++ [⟨BitVec.ofNat 32 p, 32⟩] ∧ t.palCount = 16#5 ∧ t.palOff = BitVec.ofNat 32 p ∧
          ∀ j : Fin 16, t.pal[j] = col15 (srcRead16 s (p + 2 * j.val)) := by
  have hcode : code s = searchPalette p ++ SearchCode.init o w h count := by
    rw [code, hhost]
    exact searchProgram_eq
  obtain ⟨t, r, hit, hs, hv, hh, hsrc, hen, hlen, hcap, hc, hm⟩ := runs_searchPalette hi (by rw [hhost]; rfl) hp hcode
  exact ⟨t, r, ⟨hit, hs, hv, by rw [hhost] at hh; exact hh, hsrc, hen, hlen, hcap, hc⟩, hm⟩

/-- A SEARCH that has just been started, with nothing else to come, ends as R233 to R235 say. -/
theorem search_ends (hi : Idle s) (hhost : s.host = ⟨searchProgram o w h p count, 0, [], [], [], true⟩) (hp : p ≤ 2 ^ 32 - 1)
    (hw : w ≠ 0#8) (hh : h ≠ 0#8) (hr : count = 0 ∨ o + (count - 1) * 32 * w.toNat * h.toNat ≤ 2 ^ 32 - 1) :
    EndsWith s (s.requests ++ searchRequests s o w h p count) (searchRecords s o w h p count) (searchReports s o w h p count) := by
  obtain ⟨t, r, a, hm⟩ := runs_paletteTried hi hhost hp
  refine EndsWith.of_runs r ?_
  cases hpe : searchPaletteError s p with
  | some e =>
    rw [hpe] at hm
    obtain ⟨rfl, he, hq⟩ := hm
    have hfail := a.fail he
    rw [hq] at hfail
    cases hen : s.srcEn <;> simpa [searchRequests, searchRecords, searchReports, hpe, hen] using hfail
  | none =>
    rw [hpe] at hm
    obtain ⟨he, hq, hcount, hoff, hpal⟩ := hm
    have hen : s.srcEn = true := by
      cases hen : s.srcEn
      · simp [searchPaletteError, hen] at hpe
      · rfl
    obtain ⟨u, r1, au⟩ := a.succeed he hq hcount hoff hpal
    obtain ⟨v, r2, av⟩ := au.sprites hw hh hen hr (Nat.le_refl count)
    have hfin := EndsWith.of_runs (r1.trans r2) av.finish
    simpa [searchRequests, searchRecords, searchReports, hpe, hen] using hfin

end

/-- Settles O58: the issue by its three checks; the run by its palette load, its sprites one by one, and its ends. -/
theorem searchIsIssuedOnlyInRange : Obligations.SearchIsIssuedOnlyInRange := by
  refine ⟨fun s o w h p count rest he => ⟨step_search_running he, fun hend => ⟨fun hin => ?_, fun hout => ?_⟩⟩,
    fun _ _ _ _ => rfl, fun s o w h p count he hend hb hcap hw hh hp hr => ?_⟩
  · exact ⟨_, step_search_issued he hend (searchInRange_iff.2 hin), rfl, rfl, rfl, rfl⟩
  · exact step_search_outOfRange he hend (mt searchInRange_iff.1 hout)
  · have hw1 : 1 ≤ w.toNat := Nat.pos_of_ne_zero (BitVec.toNat_ne.1 hw)
    have hh1 : 1 ≤ h.toNat := Nat.pos_of_ne_zero (BitVec.toNat_ne.1 hh)
    have hstep := step_search_issued he hend
      (searchInRange_iff.2 ⟨⟨hw1, Nat.le_of_lt_succ w.isLt, hh1, Nat.le_of_lt_succ h.isLt⟩, hp, hr⟩)
    rw [BitVec.ofNat_toNat, BitVec.setWidth_eq, BitVec.ofNat_toNat, BitVec.setWidth_eq] at hstep
    obtain ⟨u, r, hfin⟩ := search_ends (s := startProgram (searchProgram o w h p count) true { s with events := [] })
      ⟨rfl, hb, hcap⟩ rfl hp hw hh hr
    obtain ⟨n, hn⟩ := Runs.head hstep r
    exact ⟨n, u, hn, hfin⟩

end Sys2Proof.Machine
end
